-- ==== Sys2Proof/Word.lean ====
section
/-!
DEFINITION. The words of the block and their plainest arithmetic (00_scope.md R11, R13, R14; 30_encoding.md R80).
Bit 0 is the least significant bit of every word, and `w.getLsbD i` is the spec's `w[i]`.
-/

namespace Sys2Proof

/-- `RAW16`: a raw sample, 16 bits (R80, R81). -/
abbrev Word := BitVec 16

/-- `CMD19`: a command word, 19 bits (R80, R86). -/
abbrev Cmd := BitVec 19

/-- `RSP17`: a response word, 17 bits (R80, R91). -/
abbrev Rsp := BitVec 17

/-- `zext_16` of one bit (R14). -/
def zext16 (b : Bool) : Word := (BitVec.ofBool b).setWidth 16

end Sys2Proof
end

