-- ==== Sys2Proof/Syntax.lean ====
section
/-!
DEFINITION. The five host operations (00_scope.md R2, 30_encoding.md R85), one constructor per row of the opcode table.
-/

namespace Sys2Proof

/-- A host operation. `w` is a raw sample in format RAW16, the field IMM (R86, R89). `ACQ` and `TEMPF` take no operand
(R90): their IMM must be zero and a word with another IMM is no operation (R95). -/
inductive Instr where
  | acq              -- `ACQ`   acquire one raw sample (R133)
  | conn (w : Word)  -- `CONN`  is the thermocouple connected, according to `w` (R152)
  | chid (w : Word)  -- `CHID`  the identity code of the chip that sent `w`, if any (R154)
  | temp (w : Word)  -- `TEMP`  the temperature `w` encodes, or ERROR (R156)
  | tempf            -- `TEMPF` acquire a fresh sample and decode it (R162)
deriving DecidableEq, Repr

/-- The mnemonic of the row (R88). -/
def Instr.mnemonic : Instr → String
  | .acq => "ACQ"
  | .conn _ => "CONN"
  | .chid _ => "CHID"
  | .temp _ => "TEMP"
  | .tempf => "TEMPF"

end Sys2Proof
end

