-- ==== Sys2Proof/Decode.lean ====
section
/-!
DEFINITION. Decoding and encoding of command words (30_encoding.md R86 to R97, R100). Every command word has 19 bits
(R80), so the decoder is total on `Cmd`, and it rejects a reserved word by name (R95).
-/

namespace Sys2Proof

/-- `OP`, bits 18:16 (R86). -/
def opField (c : Cmd) : BitVec 3 := c.extractLsb' 16 3

/-- `IMM`, bits 15:0 (R86), taken as it stands (R89). -/
def immField (c : Cmd) : Word := c.extractLsb' 0 16

/-- The operation codes of R88. -/
def opAcq : BitVec 3 := 0b000#3
def opConn : BitVec 3 := 0b001#3
def opChid : BitVec 3 := 0b010#3
def opTemp : BitVec 3 := 0b011#3
def opTempf : BitVec 3 := 0b100#3

/-- A command word from its two fields, `OP` in the more significant position (R86). -/
def packCommand (op : BitVec 3) (imm : Word) : Cmd := op ++ imm

/-- Why a word is reserved (R95). -/
inductive Reserved where
  | opcode        -- `OP` is 101, 110 or 111
  | acqOperand    -- `OP` = 000 with `IMM` not zero
  | tempfOperand  -- `OP` = 100 with `IMM` not zero
deriving DecidableEq, Repr

/-- The operation a command word stands for, or why it is reserved (R88, R95). -/
def decode (c : Cmd) : Except Reserved Instr :=
  if opField c = opAcq then
    if immField c = 0 then .ok .acq else .error .acqOperand
  else if opField c = opConn then .ok (.conn (immField c))
  else if opField c = opChid then .ok (.chid (immField c))
  else if opField c = opTemp then .ok (.temp (immField c))
  else if opField c = opTempf then
    if immField c = 0 then .ok .tempf else .error .tempfOperand
  else .error .opcode

/-- The command word of an operation (R88). -/
def encode : Instr → Cmd
  | .acq => packCommand opAcq 0
  | .conn w => packCommand opConn w
  | .chid w => packCommand opChid w
  | .temp w => packCommand opTemp w
  | .tempf => packCommand opTempf 0

/-- A row of the opcode map: a word `c` selects it when `c &&& mask = pattern` (R88). -/
structure OpRow where
  mnemonic : String
  mask     : Cmd
  pattern  : Cmd
deriving DecidableEq, Repr

/-- The opcode map as R88 and spec/opcode_table.json print it. -/
def opcodeMap : List OpRow :=
  [ ⟨"ACQ",   0x7FFFF#19, 0x00000#19⟩,
    ⟨"CONN",  0x70000#19, 0x10000#19⟩,
    ⟨"CHID",  0x70000#19, 0x20000#19⟩,
    ⟨"TEMP",  0x70000#19, 0x30000#19⟩,
    ⟨"TEMPF", 0x7FFFF#19, 0x40000#19⟩ ]

/-- Does the word select the row (R88)? -/
def OpRow.selects (r : OpRow) (c : Cmd) : Bool := c &&& r.mask == r.pattern

/-- What the decoder reads from an instruction whose bits are `w`, numbered as the opcode table numbers them. A word
is a command word only if it fits the 19-bit port `CMD` (R22); the table's rows have 19 bits, 24 in whole bytes, and
every bit above `nbits` is zero, so `w` alone says what the word is (log 18). -/
def decodeTableWord (_nbits w : Nat) : Option Instr :=
  if w < 2 ^ 19 then
    match decode (BitVec.ofNat 19 w) with
    | .ok i => some i
    | .error _ => none
  else none

end Sys2Proof
end

