-- ==== Sys2Proof/Config.lean ====
section
/-!
DEFINITION. What a build of the block fixes (the record `CFG`, 00_scope.md R10 and 10_state.md R37), who may move
(10_state.md R21), and the free values: constants with no body, of which nothing can be proved.
-/

namespace Sys2Proof

/-- `MODE`: how the 16 bits are shifted in, chosen at construction (R10). The numbering SW = 0, HW = 1 of R37 is the
spec's own and no rule reads it. -/
inductive Mode where
  | sw   -- software-clocked: the block drives SCK and samples DATA
  | hw   -- peripheral-driven: the serial peripheral makes one 16-bit transfer
deriving DecidableEq, Repr

/-- `CFG` (R10, R37): set once at construction, written by no step. A line identifier is a number that no rule reads.
`fSckHw` is in MHz and `timeUnit` in seconds (log 19, DESIGN CHOICE, safe: no rule of the block reads either).
`RESOLUTION` is no field: it is exactly 1/4 and not configurable (R10), see `resolution`. -/
structure Cfg where
  mode       : Mode        -- `MODE`
  csLine     : Nat         -- `CS_LINE`, always present
  clkLine    : Option Nat  -- `CLK_LINE`
  dataLine   : Option Nat  -- `DATA_LINE`
  irqMaskEn  : Bool        -- `IRQ_MASK_EN`
  tCslow     : Nat         -- `T_CSLOW`, in time-units
  tConv      : Nat         -- `T_CONV`, in time-units
  fSckHw     : Rat         -- `F_SCK_HW`
  chipId     : Word        -- `CHIP_ID`
  errorValue : Rat         -- `ERROR_VALUE`
  timeUnit   : Rat         -- `TIME_UNIT`
deriving DecidableEq, Repr

/-- `RESOLUTION`: exactly 1/4 degree per step (R10, R160). -/
def resolution : Rat := 1 / 4

/-- Is `q` one of the 4096 valid results 0, 0.25, ..., 1023.75 (R159)? That is: `4 * q` is a whole number, at least 0
and at most 4095. -/
def isValidResult (q : Rat) : Bool :=
  decide (4 * q.num % q.den = 0) && decide (0 ≤ q.num) && decide (4 * q.num ≤ 4095 * q.den)

/-- Who moves next, and with what input (R21, R22). DESIGN CHOICE (log 6): one constructor per agent that takes steps;
an input that lasts one step (`CMD` with `CMD_VALID`, `TICK`) is carried by its turn (log 9). -/
inductive Turn where
  | command (c : Cmd)      -- the host drives CMD = c and CMD_VALID = 1 (R87)
  | sequencer              -- the sequencer may take its enabled micro-step (R111)
  | tick                   -- the tick source: one whole time-unit has passed (R196)
  | bus (avail : Bool)     -- another owner takes (0) or releases (1) the shared bus: the level of bus_avail (R22, R126)
  | reset (level : Bool)   -- the level of RST changes (R211)
  | interrupt              -- the platform serves an interrupt of its own (R124, R188)
deriving DecidableEq, Repr, Inhabited

/-! ### Free values
DESIGN CHOICE, safe: a statement about one of these holds whatever its value is. -/

/-- `CHIP_ID` is OPEN (D12): any 16-bit value (log 3). -/
opaque Config.chipId : Word

/-- Any number; `Config.errorValue` is made from it (log 3). -/
opaque Config.errorSeed : Rat

/-- `TIME_UNIT` is OPEN (D8): any duration (log 3). -/
opaque Config.timeUnit : Rat

/-- The platform's pin of chip-select (R10, R64; log 2). -/
opaque Config.csLine : Nat

/-- The platform's pin of the clock (R10, R64; log 2). -/
opaque Config.clkLine : Nat

/-- The platform's pin of the data line (R10, R64; log 2). -/
opaque Config.dataLine : Nat

/-- The level of bus_avail when the block comes out of its first reset (R22; log 12). -/
opaque Config.busAvailAtReset : Bool

/-- Which agent moves, once the turns State lists are used up (R21 "in any order"; log 6). -/
opaque Config.freeTurn : Nat → Turn

/-- What `SampleData()` returns, once the bits State lists are used up (R16, R60; log 7). -/
opaque Config.freeBit : Nat → Bool

/-- The word the peripheral sends during a transfer, read by nothing (R53, R129; log 7). -/
opaque Config.freeTx : Nat → Word

/-- `SR` after a later reset (R42 "unspecified"; log 5). -/
opaque Config.freeSr : Nat → Word

/-- `N` after a later reset, within its range 0 to 16 (R29, R42; log 5). -/
opaque Config.freeN : Nat → Fin 17

/-- What `DLY` after a later reset is made from (R42; log 5). -/
opaque Config.freeDly : Nat → Nat

/-- `CMDR` after a later reset (R42 "unspecified"; log 5). -/
opaque Config.freeCmdr : Nat → Cmd

/-- `RSP` after a later reset (R42 "unspecified"; log 5). -/
opaque Config.freeRsp : Nat → Rsp

/-- `ERROR_VALUE` is OPEN (D13): any number outside the 4096 valid results. Every such number `q` is this value for
the seed `q`, and a seed among the valid results is not used (log 3). -/
def Config.errorValue : Rat :=
  if isValidResult Config.errorSeed then -1 else Config.errorSeed

/-- The build `State.reset` has: the source's defaults where R10 gives one, OPEN parameters and pins free.
DESIGN CHOICE, unsafe (log 2): `MODE` = SW and `F_SCK_HW` = 4.3 MHz, for which R10 gives no default. -/
def Cfg.default : Cfg where
  mode := .sw
  csLine := Config.csLine
  clkLine := some Config.clkLine
  dataLine := some Config.dataLine
  irqMaskEn := false
  tCslow := 1
  tConv := 220
  fSckHw := 43 / 10
  chipId := Config.chipId
  errorValue := Config.errorValue
  timeUnit := Config.timeUnit

end Sys2Proof
end

