-- ==== Sys2Proof/Machine/State.lean ====
section
/-!
DEFINITION. The state of the block (10_state.md), the reasons a step can stop (60_exceptions.md R186), and the state
after the first reset (R42).
-/

namespace Sys2Proof.Machine

/-- `PH`, the phase register (R28). The spec fixes no bit encoding. -/
inductive Phase where
  | idle      -- `IDLE`: no command in progress, commands are accepted
  | stop      -- `STOP`: chip-select held low for `T_CSLOW`
  | conv      -- `CONV`: waiting the conversion latency `T_CONV`
  | opened    -- `OPEN`: frame open; in SW mode `N` bits have been shifted in
  | hi        -- `HI`: SW mode, clock raised, bit not yet sampled
  | smp       -- `SMP`: SW mode, bit sampled and shifted in, clock still high
  | owned     -- `OWNED`: HW mode, bus owned, transfer not yet done
  | xferd     -- `XFERD`: HW mode, 16 bits received, bus still owned
  | released  -- `RELEASED`: HW mode, bus released, chip-select still low
deriving DecidableEq, Repr

/-- The event alphabet of the trace (R34). -/
inductive Event where
  | csFall            -- `CS_FALL`
  | csRise            -- `CS_RISE`
  | wait (n : Nat)    -- `WAIT(n)`
  | sckRise           -- `SCK_RISE`
  | sample (b : Bool) -- `SAMPLE(b)`
  | sckFall           -- `SCK_FALL`
  | imSet             -- `IM_SET`
  | imClr             -- `IM_CLR`
  | busBegin          -- `BUS_BEGIN`
  | xfer16 (w : Word) -- `XFER16(w)`
  | busEnd            -- `BUS_END`
  | cmd (c : Cmd)     -- `CMD(c)`
  | rsp (r : Rsp)     -- `RSP(r)`
deriving DecidableEq, Repr

/-- The order in which the peripheral moves bits (R127). -/
inductive BitOrder where
  | msbFirst
  | lsbFirst
deriving DecidableEq, Repr

/-- The clock edge on which data is valid (R127). -/
inductive Edge where
  | rising
  | falling
deriving DecidableEq, Repr

/-- The settings handed over by `PER.Begin` (R126, R127). -/
structure PerSettings where
  rate     : Rat       -- in MHz
  order    : BitOrder
  idleHigh : Bool      -- the level the clock idles at
  valid    : Edge
deriving DecidableEq, Repr

/-- Why a step is held (R187). A hold stops nothing: some other agent's step lifts it. -/
inductive Hold where
  | waitTick  -- `WaitTick`: a delay runs
  | waitBus   -- `WaitBus`: another owner holds the shared bus
deriving DecidableEq, Repr

/-- Reasons the machine stops with a fault. -/
inductive Fault where
  /-- Raised by the sequencer's turn (`sequencerTurn`) in a phase and count that no rule R113 to R131 leaves and no
  hold of R187 names, for example `OPEN` with `N` = 17. No run reaches one (93_implementation_defined.md: a model that
  gets there has a bug). Safe: the spec gives such a state no step. Log 10. -/
  | noEnabledMicroStep
deriving DecidableEq, Repr

/-- Reasons the model gives a situation no meaning (R17, R186). -/
inductive Refusal where
  /-- Raised by `exec` for an instruction that has no meaning yet. None is left. Safe. -/
  | notModelled (mnemonic : String)
  /-- `CommandWhileBusy` (R186): raised by `accept`, and by `hostTurn` for a reserved word, when a command is presented
  while `PH` is not `IDLE`. Safe: the spec refuses it. -/
  | commandWhileBusy
  /-- `ReservedCommand` (R95, R186): raised by `hostTurn` for a word outside the opcode map. Safe: the spec refuses it. -/
  | reservedCommand
  /-- `IllegalConfig` (R37, R186): raised by `construct`. Safe: the spec constructs no block. -/
  | illegalConfig
  /-- Raised by `busTurn` when another owner takes the bus while the block owns it (93_implementation_defined.md U9:
  refuse, outside the spec). Safe. Log 11. -/
  | busTakenInBracket
deriving DecidableEq, Repr

/-- The whole state: the registers of 10_state.md, the input levels, `CFG`, and the environment's plain data. A 1-bit
register is a `Bool`, true for the level 1 (log 16). -/
structure State where
  cfg      : Cfg                 -- `CFG`: written by no step (R10, R37; log 1)
  ph       : Phase               -- `PH` (R28)
  csN      : Bool                -- `CS_n`, active low (R31)
  sck      : Bool                -- `SCK` (R32)
  own      : Bool                -- `OWN` (R33)
  im       : Bool                -- `IM` (R33)
  sr       : Word                -- `SR` (R23)
  n        : BitVec 5            -- `N` (R29)
  dly      : Nat                 -- `DLY` (R30)
  cmdr     : Cmd                 -- `CMDR` (R25)
  rsp      : Rsp                 -- `RSP` (R26)
  rspValid : Bool                -- `RSP_VALID` (R36)
  rst      : Bool                -- input level `RST` (R211)
  busAvail : Bool                -- input level `bus_avail` (R22)
  per      : Option PerSettings  -- port `PER`: the open session's settings (R126)
  tr       : List Event          -- `TR`, oldest first (R34)
  turns    : List Turn           -- the agents that move next, oldest first (log 6)
  line     : List Bool           -- the answers to the next draws of the data line, oldest first (log 7)
  fresh    : Nat                 -- the counter the free values are applied to (log 7)
deriving DecidableEq, Repr

/-- The state of R42 at the first reset of a block built with `c`. DESIGN CHOICE, unsafe (log 4): `SR`, `N`, `DLY`,
`CMDR` and `RSP`, which R42 leaves unspecified, hold zero. -/
def State.resetOf (c : Cfg) : State where
  cfg := c
  ph := .idle
  csN := true
  sck := false
  own := false
  im := false
  sr := 0
  n := 0
  dly := 0
  cmdr := 0
  rsp := 0
  rspValid := false
  rst := false
  busAvail := Config.busAvailAtReset
  per := none
  tr := []
  turns := []
  line := []
  fresh := 0

/-- The block right after its first reset, in the default build (R42, R213; log 2). -/
def State.reset : State := State.resetOf Cfg.default

end Sys2Proof.Machine
end

