-- ==== Sys2Proof/Machine/Operands.lean ====
section
/-!
DEFINITION. The fields of the raw sample and of the response, and the two ways a frame's 16 bits become a word
(30_encoding.md R81, R82, R91; 20_memory.md R54; 40_acquire.md R120, R128).
-/

namespace Sys2Proof.Machine

/-! ### RAW16 (R81, R82) -/

/-- `DUMMY`, bit 15: ignored by every operation (R96). -/
def dummy (w : Word) : Bool := w.getLsbD 15

/-- `mag(w) = (w >> 3) & 0xFFF`, bits 14:3, the shift being logical (R82, C1). -/
def mag (w : Word) : Word := (w >>> 3) &&& 0xFFF#16

/-- `FAULT`, bit 2: 1 = thermocouple disconnected (R82). -/
def fault (w : Word) : Bool := w.getLsbD 2

/-- `IDENT`, bit 1: 0 = the expected chip family (R82). -/
def ident (w : Word) : Bool := w.getLsbD 1

/-- `UNUSED`, bit 0: ignored by every operation (R96). -/
def unused (w : Word) : Bool := w.getLsbD 0

/-! ### RSP17 (R91) -/

/-- `{OK, VAL}`: a response word from its two fields. -/
def mkRsp (ok : Bool) (val : Word) : Rsp := BitVec.ofBool ok ++ val

/-- `RSP.OK`, bit 16. -/
def rspOk (r : Rsp) : Bool := r.getLsbD 16

/-- `RSP.VAL`, bits 15:0. -/
def rspVal (r : Rsp) : Word := r.extractLsb' 0 16

/-! ### The serial frame (R51, R54) -/

/-- One `SAMPLE`: `(SR << 1) | zext_16(b)`, the old bit 15 dropped (R120). -/
def shiftIn (sr : Word) (b : Bool) : Word := (sr <<< 1) ||| zext16 b

/-- The number the bits `d[0], d[1], ...` spell, the first being the most significant: for 16 bits it is
`sum over k = 0..15 of d[k] * 2^(15 - k)` (R54, R128). -/
def frameSum : List Bool → Nat
  | [] => 0
  | b :: rest => b.toNat * 2 ^ rest.length + frameSum rest

/-- The raw word of a frame (R54). -/
def frameWord (d : List Bool) : Word := BitVec.ofNat 16 (frameSum d)

end Sys2Proof.Machine
end

