-- ==== Sys2Proof/Machine/Flags.lean ====
section
/-!
DEFINITION. The flags and status outputs (10_state.md R35, R36) and the host's reading of a response (41_decode.md
R160, R166; 70_reset_and_hazards.md R217). The block has no condition codes: the flags of a raw word are `fault`,
`ident`, `dummy` and `unused` of Operands.lean, stored nowhere.
-/

namespace Sys2Proof.Machine

/-- `BUSY` = 1 iff `PH` is not `IDLE` (R36). -/
def State.busy (s : State) : Bool := decide (s.ph ≠ .idle)

/-- What the host may take as the answer: `RSP` while `RSP_VALID` = 1, nothing otherwise (R36, R217). -/
def State.answer (s : State) : Option Rsp := if s.rspValid then some s.rsp else none

/-- The interrupt-mask window is used: SW mode with `IRQ_MASK_EN` = 1 (R122). -/
def maskUsed (c : Cfg) : Bool := decide (c.mode = .sw) && c.irqMaskEn

/-- The steps-to-degrees conversion, `m * RESOLUTION`, exact (R160). -/
def stepsToDegrees (m : Word) : Rat := (m.toNat : Rat) * resolution

/-- `degrees(rsp)`: the host's numeric rendering of the response of a `TEMP` or `TEMPF` (R166). -/
def degrees (c : Cfg) (r : Rsp) : Rat :=
  if rspOk r then stepsToDegrees (rspVal r) else c.errorValue

end Sys2Proof.Machine
end

