-- ==== Sys2Proof/WellFormed.lean ====
section
/-!
DEFINITION. The two things that can be ill-formed: a configuration (10_state.md R37) and a command word
(30_encoding.md R88, R95). An `Instr` cannot: its type admits exactly the operands R86 allows.
-/

namespace Sys2Proof

/-- R10, R213: the mode the given lines choose. All three lines mean software mode, the chip-select line alone hardware
mode; one of the other two without its fellow chooses neither. -/
def modeOfLines (clkLine dataLine : Option Nat) : Option Mode :=
  match clkLine, dataLine with
  | some _, some _ => some .sw
  | none, none => some .hw
  | _, _ => none

/-- R10: `CLK_LINE` and `DATA_LINE` are present iff `MODE` = SW. Software mode without one of them is R37's first
illegal case; hardware mode with one of them is no configuration by R10 (log 19). -/
def Cfg.linesFitMode (c : Cfg) : Bool := decide (modeOfLines c.clkLine c.dataLine = some c.mode)

/-- R37: `T_CSLOW` is at least 1. -/
def Cfg.holdLongEnough (c : Cfg) : Bool := decide (1 ≤ c.tCslow)

/-- R37: `F_SCK_HW` is at most 4.3 MHz, that is, numerator and denominator stand at most as 43 to 10. -/
def Cfg.rateWithinRating (c : Cfg) : Bool := decide (10 * c.fSckHw.num ≤ 43 * c.fSckHw.den)

/-- R37: `ERROR_VALUE` is not among the valid results. -/
def Cfg.errorDistinct (c : Cfg) : Bool := !isValidResult c.errorValue

/-- A legal configuration: R10's rule for the lines, which takes in R37's, and the other three conditions of R37 and
R186 (log 19). -/
def Cfg.legal (c : Cfg) : Bool :=
  c.linesFitMode && c.holdLongEnough && c.rateWithinRating && c.errorDistinct

/-- R95: the words that have a meaning. `OP` is at most 4, and `IMM` is zero where `OP` is 000 or 100. -/
def commandWellFormed (c : Cmd) : Bool :=
  let op := c.extractLsb' 16 3
  let imm := c.extractLsb' 0 16
  decide (op ≤ 4) && (decide (op ≠ 0) && decide (op ≠ 4) || decide (imm = 0))

end Sys2Proof
end

