-- ==== Sys2Proof/Machine/Ops.lean ====
section
/-!
DEFINITION. The named operations every step is made of: writing a register, a pin or the trace, drawing a bit, calling
the peripheral, accepting a command, resetting, constructing. The block has no memory (20_memory.md R50) and takes no
exception (60_exceptions.md R190), so there is neither a memory operation nor an exception entry or return here.
-/

namespace Sys2Proof.Machine

/-! ### Registers and the trace -/

/-- `emit e` (R16). -/
def State.emit (e : Event) (s : State) : State := { s with tr := s.tr ++ [e] }

/-- `PH <- p`. -/
def State.goto (p : Phase) (s : State) : State := { s with ph := p }

/-- `SR <- w`. -/
def State.setShift (w : Word) (s : State) : State := { s with sr := w }

/-- `N <- k`. -/
def State.setCount (k : BitVec 5) (s : State) : State := { s with n := k }

/-- `DLY <- k` as part of `Wait(k)`: the delay is loaded and `WAIT(k)` emitted (R112, R113, R196). -/
def State.loadDelay (k : Nat) (s : State) : State := { s with dly := k, tr := s.tr ++ [.wait k] }

/-! ### Output pins (R15, R34) -/

/-- The events of writing `CS_n`: an edge only where the level changes (R34). -/
def csEdge (old new : Bool) : List Event :=
  match old, new with
  | true, false => [.csFall]
  | false, true => [.csRise]
  | _, _ => []

/-- `CS_n <- v`. -/
def State.driveCs (v : Bool) (s : State) : State := { s with csN := v, tr := s.tr ++ csEdge s.csN v }

/-- `SCK <- v` (R34: `SCK_RISE`, `SCK_FALL`). -/
def State.driveSck (v : Bool) (s : State) : State :=
  { s with sck := v, tr := s.tr ++ [if v then .sckRise else .sckFall] }

/-- `IM <- v` (R34: `IM_SET`, `IM_CLR`). -/
def State.driveIm (v : Bool) (s : State) : State :=
  { s with im := v, tr := s.tr ++ [if v then .imSet else .imClr] }

/-! ### Draws (R16, R60) -/

/-- `SampleData()`: the next bit of the data line, a draw. It is the next bit State lists, else a free value. -/
def sampleData (s : State) : Bool × State :=
  match s.line with
  | b :: rest => (b, { s with line := rest })
  | [] => (Config.freeBit s.fresh, { s with fresh := s.fresh + 1 })

/-- `k` draws in order of arrival. -/
def drawBits : Nat → State → List Bool × State
  | 0, s => ([], s)
  | k + 1, s =>
    let (b, s₁) := sampleData s
    let (bs, s₂) := drawBits k s₁
    (b :: bs, s₂)

/-! ### The serial peripheral (R126 to R130, R197) -/

/-- The settings of R127: rate `F_SCK_HW`, most significant bit first, clock idles low, data valid on the falling
edge. -/
def perSettings (c : Cfg) : PerSettings where
  rate := c.fSckHw
  order := .msbFirst
  idleHigh := false
  valid := .falling

/-- `PER.Begin(settings)`: the bus is owned and the session open (R126). -/
def State.takeBus (s : State) : State :=
  { s with own := true, per := some (perSettings s.cfg), tr := s.tr ++ [.busBegin] }

/-- `PER.Xfer16(tx)`: 16 bits in arrival order, each a draw; what is sent, `tx`, reaches no modelled agent (R53). -/
def xfer16 (_tx : Word) (s : State) : List Bool × State := drawBits 16 s

/-- `PER.End()`: the session is closed and the bus given back (R130). -/
def State.releaseBus (s : State) : State :=
  { s with own := false, per := none, tr := s.tr ++ [.busEnd] }

/-! ### Commands and responses (R87) -/

/-- `emit CMD(c); CMDR <- c; RSP_VALID <- 0` (R87). -/
def State.latchCommand (c : Cmd) (s : State) : State :=
  { s with cmdr := c, rspValid := false, tr := s.tr ++ [.cmd c] }

/-- `RSP <- r; RSP_VALID <- 1; emit RSP(RSP)` (R87, R131). -/
def State.respond (r : Rsp) (s : State) : State :=
  { s with rsp := r, rspValid := true, tr := s.tr ++ [.rsp r] }

/-- Acceptance of the command word `c` of an operation (R87), `run` being what the operation then does in the same
step. While RST = 1 the command is not seen (R211); while `PH` is not `IDLE` it is refused (R186). -/
def accept (c : Cmd) (run : State → State) (s : State) : Host.Outcome State Fault Refusal :=
  if s.rst then .next s
  else if s.ph ≠ .idle then .refused .commandWhileBusy
  else .next (run (s.latchCommand c))

/-! ### Reset (R211, R212) -/

/-- The pins go to their idle levels, in the order of R212, each change an event. -/
def releasePins (s : State) : State :=
  let s := if s.own then s.releaseBus else s
  let s := if s.im then s.driveIm false else s
  let s := if s.sck then s.driveSck false else s
  s.driveCs true

/-- The registers R42 leaves unspecified hold free values after a later reset, `N` and `DLY` within their ranges
(R29, R195; log 5). -/
def unspecify (s : State) : State :=
  { s with
    sr := Config.freeSr s.fresh
    n := BitVec.ofNat 5 (Config.freeN s.fresh).val
    dly := Config.freeDly s.fresh % (max s.cfg.tCslow s.cfg.tConv + 1)
    cmdr := Config.freeCmdr s.fresh
    rsp := Config.freeRsp s.fresh
    fresh := s.fresh + 1 }

/-- A reset later than the first: R212, then the unspecified registers; `TR` is kept (C12). -/
def resetBlock (s : State) : State :=
  { unspecify ((releasePins s).goto .idle) with rspValid := false }

/-! ### Construction (R37, R213) -/

/-- A block is constructed only from a legal configuration, and reset once (R37, R186, R213). -/
def construct (c : Cfg) : Host.Outcome State Fault Refusal :=
  if c.legal then .next (State.resetOf c) else .refused .illegalConfig

end Sys2Proof.Machine
end

