-- ==== Sys2Proof/Machine/Decoder.lean ====
section
/-!
DEFINITION. The decoder: three functions of one raw word and `CFG.CHIP_ID`, with no state and no side effect
(41_decode.md R150, R151; 30_encoding.md R92).
-/

namespace Sys2Proof.Machine

/-- `conn_rsp(w)`: `{1, zext_16(1 - fault(w))}` (R150, R152). -/
def connRsp (w : Word) : Rsp := mkRsp true (zext16 (!fault w))

/-- `chid_rsp(w)`: `{1, CHIP_ID}` where the identity bit is clear, else `{0, 0}` (R150, R154). -/
def chidRsp (c : Cfg) (w : Word) : Rsp :=
  if ident w then mkRsp false 0 else mkRsp true c.chipId

/-- `temp_rsp(w)`: the fault test, then the identity test, then the magnitude (R150, R156). -/
def tempRsp (w : Word) : Rsp :=
  if fault w then mkRsp false 0
  else if ident w then mkRsp false 0
  else mkRsp true (mag w)

end Sys2Proof.Machine
end

