-- ==== Sys2Proof/Machine/Sequencer.lean ====
section
/-!
DEFINITION. The shift-in sequencer: its ten micro-steps, which one is enabled, and what holds it (40_acquire.md R112
to R131, 60_exceptions.md R187).
-/

namespace Sys2Proof.Machine

/-! ### The micro-steps -/

/-- `START` (R112): chip-select low, the first delay. It runs in the step that accepts `ACQ` or `TEMPF`. -/
def microStart (s : State) : State := ((s.driveCs false).loadDelay s.cfg.tCslow).goto .stop

/-- `TRIGGER` (R113): chip-select high, the conversion delay. -/
def microTrigger (s : State) : State := ((s.driveCs true).loadDelay s.cfg.tConv).goto .conv

/-- The mask window opens if it is used (R116, R122). -/
def openMask (s : State) : State := if maskUsed s.cfg then s.driveIm true else s

/-- `OPENF` (R116): chip-select low, `SR` and `N` cleared, the mask window opened. -/
def microOpenf (s : State) : State := (openMask (((s.driveCs false).setShift 0).setCount 0)).goto .opened

/-- `CLKHI` (R119): the clock is raised. -/
def microClkhi (s : State) : State := (s.driveSck true).goto .hi

/-- `SAMPLE` (R120): one bit is drawn while the clock is high and shifted in. -/
def microSample (s : State) : State :=
  let (b, s₁) := sampleData s
  ((s₁.emit (.sample b)).setShift (shiftIn s₁.sr b)).goto .smp

/-- `CLKLO` (R121): the clock is lowered and the bit counted. -/
def microClklo (s : State) : State := ((s.driveSck false).setCount (s.n + 1)).goto .opened

/-- `BEGIN` (R126): the bus is taken. -/
def microBegin (s : State) : State := s.takeBus.goto .owned

/-- `XFER` (R128): 16 bits at once, the first the most significant. -/
def microXfer (s : State) : State :=
  let (d, s₁) := xfer16 (Config.freeTx s.fresh) s
  (((s₁.setShift (frameWord d)).emit (.xfer16 (frameWord d))).setCount 16).goto .xferd

/-- `END` (R130): the bus is given back, chip-select still low. -/
def microEnd (s : State) : State := s.releaseBus.goto .released

/-- What `CLOSE` writes into `RSP`: the raw word for `ACQ`, its decode for `TEMPF` (R131). For another `CMDR.OP`,
which no run has here, R131 writes nothing, so `RSP` keeps its value (log 20). -/
def closeRsp (s : State) : Rsp :=
  if opField s.cmdr = opAcq then mkRsp true s.sr
  else if opField s.cmdr = opTempf then tempRsp s.sr
  else s.rsp

/-- The mask window closes if it is open (R131). -/
def closeMask (s : State) : State := if s.im then s.driveIm false else s

/-- `CLOSE` (R131): the mask window closed, chip-select high, the response given. -/
def microClose (s : State) : State := (((closeMask s).driveCs true).respond (closeRsp s)).goto .idle

/-! ### Which one is enabled -/

/-- The micro-steps a turn of the sequencer can take (`START` is taken by acceptance). -/
inductive Micro where
  | trigger | openf | clkhi | sample | clklo | beginBus | xfer | endBus | close
deriving DecidableEq, Repr

/-- The micro-step enabled now, if one is: the conditions of R113, R116, R119 to R121, R126, R128, R130, R131. -/
def enabledMicro (s : State) : Option Micro :=
  match s.ph with
  | .idle => none
  | .stop => if s.dly = 0 then some .trigger else none
  | .conv => if s.dly = 0 then some .openf else none
  | .opened =>
    match s.cfg.mode with
    | .sw => if s.n < 16 then some .clkhi else if s.n = 16 then some .close else none
    | .hw => if s.busAvail then some .beginBus else none
  | .hi => some .sample
  | .smp => some .clklo
  | .owned => some .xfer
  | .xferd => some .endBus
  | .released =>
    match s.cfg.mode with
    | .sw => none
    | .hw => some .close

/-- The effect of a micro-step. -/
def runMicro : Micro → State → State
  | .trigger, s => microTrigger s
  | .openf, s => microOpenf s
  | .clkhi, s => microClkhi s
  | .sample, s => microSample s
  | .clklo, s => microClklo s
  | .beginBus, s => microBegin s
  | .xfer, s => microXfer s
  | .endBus, s => microEnd s
  | .close, s => microClose s

/-- What holds the sequencer, if a hold of R187 applies. -/
def holdOf (s : State) : Option Hold :=
  match s.ph with
  | .stop => if 0 < s.dly then some .waitTick else none
  | .conv => if 0 < s.dly then some .waitTick else none
  | .opened => if s.cfg.mode = .hw ∧ s.busAvail = false then some .waitBus else none
  | _ => none

/-- The sequencer's turn: the enabled micro-step; nothing while idle or held (log 8); a fault where no rule applies
(log 10). -/
def sequencerTurn (s : State) : Host.Outcome State Fault Refusal :=
  match enabledMicro s with
  | some m => .next (runMicro m s)
  | none => if s.ph = .idle ∨ (holdOf s).isSome then .next s else .fault .noEnabledMicroStep

end Sys2Proof.Machine
end

