-- ==== Sys2Proof/Machine/Acquire.lean ====
section
/-!
DEFINITION. The acquisition family: `ACQ` (40_acquire.md R133). Accepting it starts the sequencer (R87, R112); the
sequencer's later steps run the rest and `CLOSE` gives the response (R131).
-/

namespace Sys2Proof.Machine

/-- `ACQ`: accepted, then `START`. Its response is `{1, SR}`, written by `CLOSE` (R133). -/
def execAcq (s : State) : Host.Outcome State Fault Refusal := accept (encode .acq) microStart s

end Sys2Proof.Machine
end

