-- ==== Sys2Proof/Machine/Query.lean ====
section
/-!
DEFINITION. The decode family: `CONN`, `CHID`, `TEMP`, `TEMPF` (41_decode.md R152, R154, R156, R162).
-/

namespace Sys2Proof.Machine

/-- `CONN w` completes in the accepting step (R87, R152). -/
def execConn (w : Word) (s : State) : Host.Outcome State Fault Refusal :=
  accept (encode (.conn w)) (State.respond (connRsp w)) s

/-- `CHID w` completes in the accepting step (R87, R154). -/
def execChid (w : Word) (s : State) : Host.Outcome State Fault Refusal :=
  accept (encode (.chid w)) (State.respond (chidRsp s.cfg w)) s

/-- `TEMP w` completes in the accepting step (R87, R156). -/
def execTemp (w : Word) (s : State) : Host.Outcome State Fault Refusal :=
  accept (encode (.temp w)) (State.respond (tempRsp w)) s

/-- `TEMPF`: accepted, then `START`. Its response is `temp_rsp(SR)`, written by `CLOSE` (R131, R162). -/
def execTempf (s : State) : Host.Outcome State Fault Refusal := accept (encode .tempf) microStart s

end Sys2Proof.Machine
end

