-- ==== Sys2Proof/Machine/Dispatch.lean ====
section
/-!
DEFINITION. One arm per host operation.
-/

namespace Sys2Proof.Machine

def exec (i : Instr) (s : State) : Host.Outcome State Fault Refusal :=
  match i with
  | .acq => Sys2Proof.Machine.execAcq s
  | .conn w => Sys2Proof.Machine.execConn w s
  | .chid w => Sys2Proof.Machine.execChid w s
  | .temp w => Sys2Proof.Machine.execTemp w s
  | .tempf => Sys2Proof.Machine.execTempf s

end Sys2Proof.Machine
end

