-- ==== Sys2Proof/Machine/Agents.lean ====
section
/-!
DEFINITION. What each agent's step does (10_state.md R21): the host's command, a tick, another bus owner, reset, the
platform's interrupts; and which agent moves next.
-/

namespace Sys2Proof.Machine

/-- The host presents `c` (R87): not seen during reset (R211), refused while busy before the word is looked at (R189),
refused if reserved (R95), else the operation it stands for. -/
def hostTurn (c : Cmd) (s : State) : Host.Outcome State Fault Refusal :=
  match decode c with
  | .ok i => exec i s
  | .error _ =>
    if s.rst then .next s
    else if s.ph ≠ .idle then .refused .commandWhileBusy
    else .refused .reservedCommand

/-- `TICK`: `if DLY > 0 then DLY <- DLY - 1` (R196). -/
def tickTurn (s : State) : State := if 0 < s.dly then { s with dly := s.dly - 1 } else s

/-- Another owner takes or releases the shared bus, which is what `bus_avail` shows. Taking it while the block owns it
is outside the spec and refused (93_implementation_defined.md U9; log 11). -/
def busTurn (avail : Bool) (s : State) : Host.Outcome State Fault Refusal :=
  if s.own && !avail then .refused .busTakenInBracket else .next { s with busAvail := avail }

/-- RST becomes `level` (R211): at 1 the block is put in the reset state, at 0 it leaves it. -/
def resetTurn (level : Bool) (s : State) : State :=
  if level then { resetBlock s with rst := true } else { s with rst := false }

/-- One turn. While RST = 1 the block is in the reset state, so ticks and sequencer turns do nothing to it (R211). -/
def act (t : Turn) (s : State) : Host.Outcome State Fault Refusal :=
  match t with
  | .command c => hostTurn c s
  | .sequencer => if s.rst then .next s else sequencerTurn s
  | .tick => if s.rst then .next s else .next (tickTurn s)
  | .bus avail => busTurn avail s
  | .reset level => .next (resetTurn level s)
  | .interrupt => .next s

/-- Who moves next: the first turn State lists, else a free value (R21; log 6). -/
def nextTurn (s : State) : Turn × State :=
  match s.turns with
  | t :: rest => (t, { s with turns := rest })
  | [] => (Config.freeTurn s.fresh, { s with fresh := s.fresh + 1 })

/-- The host is the next to move, and presents the table word `w` (log 9, log 18). A number that does not fit the
19-bit port cannot be presented, and leaves the state as it is. -/
def presentTableWord (s : State) (w : Nat) : State :=
  if w < 2 ^ 19 then { s with turns := .command (BitVec.ofNat 19 w) :: s.turns } else s

end Sys2Proof.Machine
end

