-- ==== Sys2Proof/Machine/Step.lean ====
section
/-!
DEFINITION. One step of the machine: the agent whose turn it is takes its step (10_state.md R21).
-/

namespace Sys2Proof.Machine

/-- One step of one agent. -/
def step (s : State) : Host.Outcome State Fault Refusal := act (nextTurn s).1 (nextTurn s).2

/-- `s` with the command word `w` presented by the host in the very next step (log 9). -/
def State.withFetchWord (s : State) (_nbits w : Nat) : State := presentTableWord s w

end Sys2Proof.Machine
end

