-- ==== Sys2Proof/Machine/Assembler.lean ====
section
/-!
DEFINITION. The notation command streams are written in (30_encoding.md R98) and its three pseudo-operations (R99).
It is the spec's own and no part of the block; it says which commands a line makes the host present.
-/

namespace Sys2Proof.Machine

/-- The sample operand of a line: a number, or `$k`, the raw word of line `k`'s response (R98, R99). -/
inductive AsmOperand where
  | literal (w : Word)
  | answerOf (k : Nat)
deriving DecidableEq, Repr

/-- A source line (R98, R99). -/
inductive AsmLine where
  | acq
  | conn (o : AsmOperand)
  | chid (o : AsmOperand)
  | temp (o : Option AsmOperand)  -- with no operand: the pseudo-operation for `tempf`
  | tempf
  | read                          -- the pseudo-operation for `acq` then `temp` of its result
deriving DecidableEq, Repr

/-- The pseudo-operations expanded, the first line standing at place `k` of the expanded stream (R99; log 23). -/
def expandFrom : Nat → List AsmLine → List AsmLine
  | _, [] => []
  | k, .read :: rest => .acq :: .temp (some (.answerOf k)) :: expandFrom (k + 2) rest
  | k, .temp none :: rest => .tempf :: expandFrom (k + 1) rest
  | k, l :: rest => l :: expandFrom (k + 1) rest

/-- The stream of a program with its pseudo-operations expanded. -/
def expand (prog : List AsmLine) : List AsmLine := expandFrom 0 prog

/-- The sample an operand stands for, given the stream and the responses so far: `$k` is `rsp[k].VAL`, and line `k`
must be an `acq` (R99). -/
def operandWord (prog : List AsmLine) (answers : List Rsp) : AsmOperand → Option Word
  | .literal w => some w
  | .answerOf k => if prog[k]? = some .acq then (answers[k]?).map rspVal else none

/-- The operation a line of an expanded stream presents; `read` is no line of one. -/
def lineInstr (prog : List AsmLine) (answers : List Rsp) : AsmLine → Option Instr
  | .acq => some .acq
  | .conn o => (operandWord prog answers o).map .conn
  | .chid o => (operandWord prog answers o).map .chid
  | .temp (some o) => (operandWord prog answers o).map .temp
  | .temp none => some .tempf
  | .tempf => some .tempf
  | .read => none

/-! ### The text of a line (R98) -/

/-- A digit's value. Hexadecimal digits of either case are read (log 23). -/
def digitValue (c : Char) : Option Nat :=
  if '0' ≤ c ∧ c ≤ '9' then some (c.toNat - '0'.toNat)
  else if 'a' ≤ c ∧ c ≤ 'f' then some (c.toNat - 'a'.toNat + 10)
  else if 'A' ≤ c ∧ c ≤ 'F' then some (c.toNat - 'A'.toNat + 10)
  else none

/-- The number digits spell in a base, `acc` standing before them. -/
def digitsValue (base : Nat) : Nat → List Char → Option Nat
  | acc, [] => some acc
  | acc, c :: cs =>
    match digitValue c with
    | some d => if d < base then digitsValue base (acc * base + d) cs else none
    | none => none

/-- The same, with at least one digit. -/
def numeral (base : Nat) (cs : List Char) : Option Nat :=
  if cs.isEmpty then none else digitsValue base 0 cs

/-- A number: hexadecimal after `0x`, binary after `0b` with optional underscores, else decimal (R98). -/
def numberOf : List Char → Option Nat
  | '0' :: 'x' :: cs => numeral 16 cs
  | '0' :: 'b' :: cs => numeral 2 (cs.filter (· ≠ '_'))
  | cs => numeral 10 cs

/-- An operand: `$k`, or a number in 0..65535 (R98, R99). -/
def operandOf : List Char → Option AsmOperand
  | '$' :: cs => (numeral 10 cs).map .answerOf
  | cs =>
    match numberOf cs with
    | some v => if v ≤ 65535 then some (.literal (BitVec.ofNat 16 v)) else none
    | none => none

/-- The words of a text, split at spaces. -/
def splitSpaces : List Char → List (List Char)
  | [] => [[]]
  | c :: cs =>
    if c = ' ' then [] :: splitSpaces cs
    else
      match splitSpaces cs with
      | [] => [[c]]
      | w :: ws => (c :: w) :: ws

/-- The line a text spells: mnemonic in lower case, at most one operand, `;` starting a comment (R98). The outer
`none` is a text that is no line; `some none` is a line with no command, blank or all comment. -/
def parseLine (text : List Char) : Option (Option AsmLine) :=
  match (splitSpaces (text.takeWhile (· ≠ ';'))).filter (fun w => !w.isEmpty) with
  | [] => some none
  | [['a', 'c', 'q']] => some (some .acq)
  | [['t', 'e', 'm', 'p', 'f']] => some (some .tempf)
  | [['r', 'e', 'a', 'd']] => some (some .read)
  | [['t', 'e', 'm', 'p']] => some (some (.temp none))
  | [['c', 'o', 'n', 'n'], o] => (operandOf o).map fun o => some (.conn o)
  | [['c', 'h', 'i', 'd'], o] => (operandOf o).map fun o => some (.chid o)
  | [['t', 'e', 'm', 'p'], o] => (operandOf o).map fun o => some (.temp (some o))
  | _ => none

end Sys2Proof.Machine
end

