-- ==== Sys2Proof/Safety.lean ====
section
/-!
DEFINITION. What claims are stated in: the pins of each phase, the invariant of a run, the trace an acquisition has
produced so far and the whole of it, the work an acquisition has left, the schedule in which nothing comes between, and
the named premises about the environment: `ChipOK`, `Ticks`, `BusFair` and those beside them.
-/

namespace Sys2Proof.Machine

/-! ### Pins of each phase (R28, R41) -/

/-- The four output registers. -/
structure Pins where
  csN : Bool
  sck : Bool
  own : Bool
  im  : Bool
deriving DecidableEq, Repr

/-- The pins of a state. -/
def State.pins (s : State) : Pins := ⟨s.csN, s.sck, s.own, s.im⟩

/-- What R28 says the pins are in each phase; `IM` is 1 exactly while a masked frame is open (R33, R122). -/
def pinsOf (c : Cfg) : Phase → Pins
  | .idle => ⟨true, false, false, false⟩
  | .stop => ⟨false, false, false, false⟩
  | .conv => ⟨true, false, false, false⟩
  | .opened => ⟨false, false, false, maskUsed c⟩
  | .hi => ⟨false, true, false, maskUsed c⟩
  | .smp => ⟨false, true, false, maskUsed c⟩
  | .owned => ⟨false, false, true, false⟩
  | .xferd => ⟨false, false, true, false⟩
  | .released => ⟨false, false, false, false⟩

/-- Which phases each mode has (R28). -/
def phaseOfMode (m : Mode) : Phase → Bool
  | .hi => m == .sw
  | .smp => m == .sw
  | .owned => m == .hw
  | .xferd => m == .hw
  | .released => m == .hw
  | _ => true

/-- What `N` can be in each phase (R29, R116, R119, R121, R128). -/
def countOk (m : Mode) (n : BitVec 5) : Phase → Bool
  | .opened => if m = .sw then n ≤ 16 else n = 0
  | .hi => n < 16
  | .smp => n < 16
  | .owned => n = 0
  | .xferd => n = 16
  | .released => n = 16
  | _ => n ≤ 16

/-- What `DLY` can be in each phase (R30, R195). -/
def delayBound (c : Cfg) : Phase → Nat
  | .stop => c.tCslow
  | .conv => c.tConv
  | _ => max c.tCslow c.tConv

/-- The invariant of a run. -/
structure Inv (s : State) : Prop where
  /-- The pins are those of the phase (R28, R41). -/
  pins : s.pins = pinsOf s.cfg s.ph
  /-- The phase is one of the mode's (R28). -/
  phase : phaseOfMode s.cfg.mode s.ph = true
  /-- `N` is in range (R29). -/
  count : countOk s.cfg.mode s.n s.ph = true
  /-- `DLY` is in range (R195). -/
  delay : s.dly ≤ delayBound s.cfg s.ph
  /-- An acquisition in progress was asked for by `ACQ` or `TEMPF` (R25, R87). -/
  command : s.ph ≠ .idle → s.cmdr = encode .acq ∨ s.cmdr = encode .tempf
  /-- No response is valid while an acquisition runs (R36). -/
  pending : s.ph ≠ .idle → s.rspValid = false
  /-- A valid response with `OK` = 0 has `VAL` = 0 (R91), and is the trace's last event (R34). -/
  response : s.rspValid = true →
    (rspOk s.rsp = false → rspVal s.rsp = 0) ∧ ∃ before, s.tr = before ++ [.rsp s.rsp]
  /-- A transfer session is open exactly while the bus is owned, with the settings of R127. -/
  session : s.per = if s.own then some (perSettings s.cfg) else none
  /-- While the block owns the bus, no other owner does (R69). -/
  bus : s.own = true → s.busAvail = true
  /-- While RST = 1 the block is in the reset state (R211). -/
  resetState : s.rst = true → s.ph = .idle ∧ s.rspValid = false

/-! ### The trace of an acquisition (R132) -/

/-- The clock and sample events of the bits `d` in SW mode (R119, R120, R121). -/
def pulses : List Bool → List Event
  | [] => []
  | b :: rest => .sckRise :: .sample b :: .sckFall :: pulses rest

/-- An event of the mask window, if the window is used (R122). -/
def ifMasked (c : Cfg) (e : Event) : List Event := if maskUsed c then [e] else []

/-- From the command to the open frame (R112, R113, R116). -/
def openingEvents (c : Cfg) (w : Cmd) : List Event :=
  [.cmd w, .csFall, .wait c.tCslow, .csRise, .wait c.tConv, .csFall] ++ ifMasked c .imSet

/-- The bracket of HW mode around the transfer of the bits `d` (R126, R128, R130). -/
def bracketEvents (d : List Bool) : List Event := [.busBegin, .xfer16 (frameWord d), .busEnd]

/-- The trace of one acquisition, complete (R132): command word `w`, data bits `d`, response `r`. -/
def acquisitionTrace (c : Cfg) (w : Cmd) (d : List Bool) (r : Rsp) : List Event :=
  match c.mode with
  | .sw => openingEvents c w ++ pulses d ++ ifMasked c .imClr ++ [.csRise, .rsp r]
  | .hw => openingEvents c w ++ bracketEvents d ++ [.csRise, .rsp r]

/-- The events of the acquisition in progress so far, by phase; `d` holds the bits taken so far. -/
def eventsSoFar (c : Cfg) (w : Cmd) (d : List Bool) : Phase → List Event
  | .idle => []
  | .stop => [.cmd w, .csFall, .wait c.tCslow]
  | .conv => [.cmd w, .csFall, .wait c.tCslow, .csRise, .wait c.tConv]
  | .opened => openingEvents c w ++ pulses d
  | .hi => openingEvents c w ++ pulses d ++ [.sckRise]
  | .smp => openingEvents c w ++ (pulses d).dropLast
  | .owned => openingEvents c w ++ [.busBegin]
  | .xferd => openingEvents c w ++ [.busBegin, .xfer16 (frameWord d)]
  | .released => openingEvents c w ++ bracketEvents d

/-- How many bits of the frame have been taken (R29, R123). -/
def bitsTaken (s : State) : Nat :=
  match s.ph with
  | .opened => s.n.toNat
  | .hi => s.n.toNat
  | .smp => s.n.toNat + 1
  | .xferd => 16
  | .released => 16
  | _ => 0

/-- Is the frame open, so that `SR` holds the bits taken so far (R116, R131)? -/
def frameOpen : Phase → Bool
  | .idle => false
  | .stop => false
  | .conv => false
  | _ => true

/-- An acquisition in progress has produced exactly the events R132 prescribes up to its phase, and once its frame is
open `SR` holds the bits taken so far, the first the most significant (R123). -/
def InFlight (s : State) : Prop :=
  s.ph ≠ .idle → ∃ before d,
    s.tr = before ++ eventsSoFar s.cfg s.cmdr d s.ph ∧ d.length = bitsTaken s ∧
    (frameOpen s.ph = true → s.sr.toNat = frameSum d % 2 ^ 16)

/-- The response an acquiring operation gives for the bits of its frame (R131, R133, R162). -/
def responseTo (w : Cmd) (d : List Bool) : Rsp :=
  if opField w = opAcq then mkRsp true (frameWord d) else tempRsp (frameWord d)

/-! ### Progress (R199) -/

/-- The ticks and sequencer steps the acquisition in progress still needs. -/
def workLeft (s : State) : Nat :=
  let frame := match s.cfg.mode with
    | .sw => 49
    | .hw => 4
  match s.ph with
  | .idle => 0
  | .stop => s.dly + 1 + s.cfg.tConv + 1 + frame
  | .conv => s.dly + 1 + frame
  | .opened =>
    match s.cfg.mode with
    | .sw => 3 * (16 - s.n.toNat) + 1
    | .hw => 4
  | .hi => 3 * (16 - s.n.toNat)
  | .smp => 3 * (16 - s.n.toNat) - 1
  | .owned => 3
  | .xferd => 2
  | .released => 1

/-- `k` steps in a row, ending at the first fault or refusal. -/
def steps : Nat → State → Host.Outcome State Fault Refusal
  | 0, s => .next s
  | k + 1, s =>
    match step s with
    | .next t => steps k t
    | .fault f => .fault f
    | .refused r => .refused r

/-- The turns of one acquisition when ticks arrive as soon as possible and no other agent steps in between
(95_test_vectors.md V29, V30): after acceptance, `T_CSLOW` ticks, `TRIGGER`, `T_CONV` ticks, then `OPENF` and the rest
of the sequencer's steps, 50 in SW mode and 5 in HW mode. -/
def promptTurns (c : Cfg) : List Turn :=
  List.replicate c.tCslow .tick ++ [.sequencer] ++ List.replicate c.tConv .tick ++
    List.replicate (match c.mode with | .sw => 50 | .hw => 5) .sequencer

/-- A state in which a command is accepted: not in reset, idle, with the pins of idle (R41, R87, R211). -/
def Ready (s : State) : Prop := s.rst = false ∧ s.ph = .idle ∧ s.pins = pinsOf s.cfg .idle

/-! ### The environment's premise `ChipOK` (R61) -/

/-- What a healthy chip sends in one frame. `latency` is the chip's own conversion latency and `waited` how much time
passed between the rising edge that started the conversion and the opening of the frame, both in time-units;
`magnitude` is the 12-bit result of that conversion. Of a frame opened before the latency has passed it does not hold
(R221, 93_implementation_defined.md U5). Nothing assumes it by default. -/
structure ChipOK (d : List Bool) (disconnected : Bool) (latency waited magnitude : Nat) : Prop where
  length : d.length = 16
  /-- (a) -/
  dummy : d[0]? = some false
  /-- (b) -/
  identity : d[14]? = some false
  /-- (c) -/
  fault : d[13]? = some disconnected
  /-- (d), its proviso: the conversion was over before the frame opened. -/
  converted : latency ≤ waited
  /-- (d): positions 1 to 12 hold the result of the conversion. Position 15 is unconstrained (e). -/
  reading : frameSum ((d.drop 1).take 12) = magnitude

/-! ### The premises of progress (R70, R199) -/

/-- Who moves at each step of a run without end. -/
abbrev Schedule := Nat → Turn

/-- Where `k` steps of the schedule lead: in each the schedule's turn stands first in the list. -/
def runBy (σ : Schedule) (s : State) : Nat → Host.Outcome State Fault Refusal
  | 0 => .next s
  | k + 1 =>
    match runBy σ s k with
    | .next t => step { t with turns := σ k :: t.turns }
    | .fault f => .fault f
    | .refused r => .refused r

/-- `Ticks` (R199): the tick source produces `TICK` events without end. -/
def Ticks (σ : Schedule) : Prop := ∀ k, ∃ j, k ≤ j ∧ σ j = .tick

/-- The sequencer is weakly fair (R199): again and again it either has its turn or has no micro-step enabled, so a
micro-step that stays enabled is taken. -/
def WeaklyFair (σ : Schedule) (s : State) : Prop :=
  ∀ k, ∃ j, k ≤ j ∧ (σ j = .sequencer ∨ ∃ t, runBy σ s j = .next t ∧ enabledMicro t = none)

/-- Is the block waiting to take the bus (R126)? -/
def wantsBus (s : State) : Bool := decide (s.cfg.mode = .hw) && decide (s.ph = .opened)

/-- `BusFair` (R70): `bus_avail` is 1 infinitely often, and stays 1 until the block that wants the bus takes it. -/
structure BusFair (σ : Schedule) (s : State) : Prop where
  often : ∀ k, ∃ j t, k ≤ j ∧ runBy σ s j = .next t ∧ t.busAvail = true
  stays : ∀ k t, runBy σ s k = .next t → wantsBus t = true → t.busAvail = true → σ k ≠ .bus false

/-- No other owner takes the bus inside the bracket (R69, R220). -/
def BracketHonoured (σ : Schedule) (s : State) : Prop :=
  ∀ k t, runBy σ s k = .next t → t.own = true → σ k ≠ .bus false

/-- The host waits for its answer (R87, R216), and no reset ends the acquisition early (R136). -/
def Undisturbed (σ : Schedule) : Prop := ∀ k, (∀ c, σ k ≠ .command c) ∧ ∀ level, σ k ≠ .reset level

end Sys2Proof.Machine
end

