-- ==== Sys2Proof/Certificates/Slice0/Obligations.lean ====
section
/-!
DEFINITION. The statements about the block, from the numbered rules of spec/. Each docstring names the rule it
formalises.
-/

open Sys2Proof Sys2Proof.Machine

/-! ## Encoding -/

/-- R86, R88: decoding the word of an operation gives the operation back, with every sample value, and a word that
decodes is the word of what it decodes to, so no bit of a command word is dropped. -/
def Obligations.DecodeAndEncodeAreInverse : Prop :=
  (∀ i : Instr, decode (encode i) = .ok i) ∧
  ∀ (c : Cmd) (i : Instr), decode c = .ok i → encode i = c

/-- R88: a command word selects the row for which `c & mask = match`; the rows are disjoint; a word that matches no row
is reserved. The rows are written out here as R88 prints them. -/
def Obligations.DecodeFollowsOpcodeMap : Prop :=
  ∀ c : Cmd,
    (decode c = .ok .acq ↔ c &&& 0x7FFFF#19 = 0x00000#19) ∧
    ((∃ w, decode c = .ok (.conn w)) ↔ c &&& 0x70000#19 = 0x10000#19) ∧
    ((∃ w, decode c = .ok (.chid w)) ↔ c &&& 0x70000#19 = 0x20000#19) ∧
    ((∃ w, decode c = .ok (.temp w)) ↔ c &&& 0x70000#19 = 0x30000#19) ∧
    (decode c = .ok .tempf ↔ c &&& 0x7FFFF#19 = 0x40000#19) ∧
    (opcodeMap.filter (fun r => r.selects c)).length ≤ 1 ∧
    ((opcodeMap.filter (fun r => r.selects c)) = [] ↔ ∃ r, decode c = .error r)

/-- R95: which words are reserved, how many they are, and that the block in `IDLE` refuses one. -/
def Obligations.ReservedWordsAreRefused : Prop :=
  (∀ c : Cmd, (∃ r, decode c = .error r) ↔
    (5 ≤ (opField c).toNat ∨ opField c = 0b000#3 ∧ immField c ≠ 0 ∨ opField c = 0b100#3 ∧ immField c ≠ 0)) ∧
  Nat.card { c : Cmd // ∃ r, decode c = .error r } = 327678 ∧
  ∀ (s : State) (c : Cmd) (rest : List Turn), s.rst = false → s.ph = .idle →
    s.turns = .command c :: rest → (∃ r, decode c = .error r) → step s = .refused .reservedCommand

/-- Words written out from R88's encoding column and R98's example decode to what they stand for. -/
def Obligations.PrintedWordsDecode : Prop :=
  decode 0b000_0000000000000000#19 = .ok .acq ∧
  decode 0b001_0000001100100000#19 = .ok (.conn 0x0320#16) ∧
  decode 0b010_0000001100100000#19 = .ok (.chid 0x0320#16) ∧
  decode 0b011_0000001100100000#19 = .ok (.temp 0x0320#16) ∧
  decode 0b100_0000000000000000#19 = .ok .tempf ∧
  decode 0x00001#19 = .error .acqOperand ∧
  decode 0x40001#19 = .error .tempfOperand ∧
  decode 0x50000#19 = .error .opcode

/-! ## The operations -/

/-- R152: `CONN w` answers 1 where the fault flag is clear and 0 where it is set, always with `OK` = 1; it moves no
pin and writes nothing but the command latch and the response; it is refused only while busy. -/
def Obligations.ConnTestsTheFaultFlag : Prop :=
  ∀ (s : State) (w : Word),
    decode (0x10000#19 ||| w.setWidth 19) = .ok (.conn w) ∧
    (s.rst = false → s.ph = .idle →
      exec (.conn w) s = .next { s with
        cmdr := 0x10000#19 ||| w.setWidth 19
        rsp := if w.getLsbD 2 then 0x10000#17 else 0x10001#17
        rspValid := true
        tr := s.tr ++ [.cmd (0x10000#19 ||| w.setWidth 19),
          .rsp (if w.getLsbD 2 then 0x10000#17 else 0x10001#17)] }) ∧
    (s.rst = false → s.ph ≠ .idle → exec (.conn w) s = .refused .commandWhileBusy)

/-- R154: `CHID w` answers `CHIP_ID` with `OK` = 1 where the identity bit is clear, and "none" (`OK` = 0, `VAL` = 0)
where it is set; it moves no pin and writes nothing but the command latch and the response; it is refused only while
busy. -/
def Obligations.ChidAnswersIdentityOrNone : Prop :=
  ∀ (s : State) (w : Word),
    decode (0x20000#19 ||| w.setWidth 19) = .ok (.chid w) ∧
    (s.rst = false → s.ph = .idle →
      exec (.chid w) s = .next { s with
        cmdr := 0x20000#19 ||| w.setWidth 19
        rsp := if w.getLsbD 1 then 0#17 else 0x10000#17 ||| s.cfg.chipId.setWidth 17
        rspValid := true
        tr := s.tr ++ [.cmd (0x20000#19 ||| w.setWidth 19),
          .rsp (if w.getLsbD 1 then 0#17 else 0x10000#17 ||| s.cfg.chipId.setWidth 17)] }) ∧
    (s.rst = false → s.ph ≠ .idle → exec (.chid w) s = .refused .commandWhileBusy)

/-- R156: `TEMP w` answers ERROR where the fault flag or the identity bit is set, else the 12-bit magnitude
`(w >> 3) & 0xFFF` with `OK` = 1; it moves no pin, triggers no acquisition and writes nothing but the command latch and
the response; it is refused only while busy. -/
def Obligations.TempAnswersMagnitudeOrError : Prop :=
  ∀ (s : State) (w : Word),
    let r : Rsp := if w.getLsbD 2 then 0#17 else if w.getLsbD 1 then 0#17
      else 0x10000#17 ||| ((w >>> 3) &&& 0xFFF#16).setWidth 17
    decode (0x30000#19 ||| w.setWidth 19) = .ok (.temp w) ∧
    (s.rst = false → s.ph = .idle →
      exec (.temp w) s = .next { s with
        cmdr := 0x30000#19 ||| w.setWidth 19, rsp := r, rspValid := true
        tr := s.tr ++ [.cmd (0x30000#19 ||| w.setWidth 19), .rsp r] }) ∧
    (s.rst = false → s.ph ≠ .idle → exec (.temp w) s = .refused .commandWhileBusy)

/-- R112 with R87: accepting `ACQ` (word 0x00000) or `TEMPF` (word 0x40000) latches the command, takes `RSP_VALID` away,
drives chip-select low, loads the first delay and enters `STOP`; it changes nothing else. The premise on `CS_n` is R112's
own ("so `PH = IDLE`, `CS_n = 1`"). -/
def Obligations.AcquiringCommandsStart : Prop :=
  ∀ (s : State), s.rst = false → s.ph = .idle → s.csN = true →
    exec .acq s = .next { s with
      cmdr := 0x00000#19, rspValid := false, csN := false, dly := s.cfg.tCslow, ph := .stop
      tr := s.tr ++ [.cmd 0x00000#19, .csFall, .wait s.cfg.tCslow] } ∧
    exec .tempf s = .next { s with
      cmdr := 0x40000#19, rspValid := false, csN := false, dly := s.cfg.tCslow, ph := .stop
      tr := s.tr ++ [.cmd 0x40000#19, .csFall, .wait s.cfg.tCslow] }

/-- Frame of `CONN`, `CHID`, `TEMP` in every state: whatever the step answers, it leaves every pin, the sequencer's
registers, the configuration, the inputs and the environment's data as they were, and only adds to the trace. -/
def Obligations.DecodeOperationsFrame : Prop :=
  ∀ (s t : State) (i : Instr), ((∃ w, i = .conn w) ∨ (∃ w, i = .chid w) ∨ ∃ w, i = .temp w) →
    exec i s = .next t →
    t.pins = s.pins ∧ t.ph = s.ph ∧ t.sr = s.sr ∧ t.n = s.n ∧ t.dly = s.dly ∧ t.cfg = s.cfg ∧ t.rst = s.rst ∧
    t.busAvail = s.busAvail ∧ t.per = s.per ∧ t.turns = s.turns ∧ t.line = s.line ∧ t.fresh = s.fresh ∧
    ∃ es, t.tr = s.tr ++ es

/-- Frame of `ACQ` and `TEMPF` in every state: the accepting step leaves the response word, `SR`, `N`, every pin but
chip-select, the configuration, the inputs and the environment's data as they were, and only adds to the trace. -/
def Obligations.AcquiringOperationsFrame : Prop :=
  ∀ (s t : State) (i : Instr), (i = .acq ∨ i = .tempf) → exec i s = .next t →
    t.rsp = s.rsp ∧ t.sr = s.sr ∧ t.n = s.n ∧ t.sck = s.sck ∧ t.own = s.own ∧ t.im = s.im ∧ t.cfg = s.cfg ∧
    t.rst = s.rst ∧ t.busAvail = s.busAvail ∧ t.per = s.per ∧ t.turns = s.turns ∧ t.line = s.line ∧
    t.fresh = s.fresh ∧ ∃ es, t.tr = s.tr ++ es

/-- R164: `CONN`, `CHID` and `TEMP` are pure. From any two states that accept commands the same operation gives the same
response (for `CHID`, given the same `CHIP_ID`), and the trace gains the command and the response and no pin or bus
event. -/
def Obligations.DecodeOperationsArePure : Prop :=
  ∀ (s s' : State) (i : Instr), ((∃ w, i = .conn w) ∨ (∃ w, i = .chid w) ∨ ∃ w, i = .temp w) →
    s.rst = false → s.ph = .idle → s'.rst = false → s'.ph = .idle → ((∃ w, i = .chid w) → s'.cfg.chipId = s.cfg.chipId) →
    ∃ t t' r, exec i s = .next t ∧ exec i s' = .next t' ∧ t.rsp = r ∧ t'.rsp = r ∧
      t.tr = s.tr ++ [.cmd (encode i), .rsp r] ∧ t'.tr = s'.tr ++ [.cmd (encode i), .rsp r]

/-- R87 and the rule of the step: when the host's turn presents a word that decodes, the step is the operation's `exec`
on the state with that turn taken from the list, and nothing is added around it. -/
def Obligations.StepRunsTheDecodedCommand : Prop :=
  ∀ (s : State) (c : Cmd) (rest : List Turn) (i : Instr),
    s.turns = .command c :: rest → decode c = .ok i → step s = exec i { s with turns := rest }

/-- R216: a command presented while `BUSY` = 1 is refused `CommandWhileBusy`, whatever its word, a reserved one too. -/
def Obligations.CommandWhileBusyIsRefused : Prop :=
  ∀ (s : State) (c : Cmd) (rest : List Turn),
    s.turns = .command c :: rest → s.rst = false → s.busy = true → step s = .refused .commandWhileBusy

/-! ## The micro-steps -/

/-- R113, R116: `TRIGGER` and `OPENF`, each in the state its rule enables it in, with the pins of the phase. -/
def Obligations.TriggerAndOpenFrameSteps : Prop :=
  ∀ (s : State) (rest : List Turn), s.turns = .sequencer :: rest → s.rst = false → s.dly = 0 →
    (s.ph = .stop → s.csN = false → step s = .next { s with
      turns := rest, csN := true, dly := s.cfg.tConv, ph := .conv
      tr := s.tr ++ [.csRise, .wait s.cfg.tConv] }) ∧
    (s.ph = .conv → s.csN = true → s.cfg.mode = .sw → s.cfg.irqMaskEn = true → step s = .next { s with
      turns := rest, csN := false, sr := 0, n := 0, im := true, ph := .opened
      tr := s.tr ++ [.csFall, .imSet] }) ∧
    (s.ph = .conv → s.csN = true → (s.cfg.mode = .hw ∨ s.cfg.irqMaskEn = false) → step s = .next { s with
      turns := rest, csN := false, sr := 0, n := 0, ph := .opened
      tr := s.tr ++ [.csFall] })

/-- R119, R120, R121: raise the clock, sample the line while it is high, lower the clock and count; after that the next
pulse is enabled, or after the sixteenth bit `CLOSE`. Where the bit comes from is the model's choice (log 7) for R16's
and R60's draws: the next one of the list `line`, else the free value `Config.freeBit` of the counter `fresh`. -/
def Obligations.SoftwareShiftSteps : Prop :=
  ∀ (s : State) (rest : List Turn), s.turns = .sequencer :: rest → s.rst = false →
    (s.cfg.mode = .sw → s.ph = .opened → s.n < 16 → step s = .next { s with
      turns := rest, sck := true, ph := .hi, tr := s.tr ++ [.sckRise] }) ∧
    (∀ b more, s.ph = .hi → s.line = b :: more → step s = .next { s with
      turns := rest, line := more, sr := (s.sr <<< 1) ||| (BitVec.ofBool b).setWidth 16, ph := .smp
      tr := s.tr ++ [.sample b] }) ∧
    (s.ph = .hi → s.line = [] → step s = .next { s with
      turns := rest, fresh := s.fresh + 1
      sr := (s.sr <<< 1) ||| (BitVec.ofBool (Config.freeBit s.fresh)).setWidth 16, ph := .smp
      tr := s.tr ++ [.sample (Config.freeBit s.fresh)] }) ∧
    (s.ph = .smp → step s = .next { s with
      turns := rest, sck := false, n := s.n + 1, ph := .opened, tr := s.tr ++ [.sckFall] }) ∧
    (s.ph = .smp → Inv s → ∀ t, step s = .next t →
      enabledMicro t = some (if s.n = 15 then .close else .clkhi))

/-- R126, R128, R130: take the bus when it is available and wait while it is not, transfer 16 bits with the first the
most significant, give the bus back. The settings handed over are R127's; that they are kept in a field is the model's
choice (log 22). That a held step is a next state with only the turn used is the model's reading of R17 (log 8). The bits
are what `drawBits 16` gives: those of the list `line` first, then free values, the model's choice for R16's and R60's
draws (log 7). -/
def Obligations.PeripheralShiftSteps : Prop :=
  ∀ (s : State) (rest : List Turn), s.turns = .sequencer :: rest → s.rst = false →
    (s.cfg.mode = .hw → s.ph = .opened → s.busAvail = true → step s = .next { s with
      turns := rest, own := true, ph := .owned
      per := some ⟨s.cfg.fSckHw, .msbFirst, false, .falling⟩, tr := s.tr ++ [.busBegin] }) ∧
    (s.cfg.mode = .hw → s.ph = .opened → s.busAvail = false → step s = .next { s with turns := rest }) ∧
    (s.ph = .owned →
      let d := (drawBits 16 s).1
      d.length = 16 ∧
      (∀ j, j < 16 → d[j]? = some ((s.line[j]?).getD (Config.freeBit (s.fresh + (j - s.line.length))))) ∧
      step s = .next { s with
        turns := rest, line := s.line.drop 16, fresh := s.fresh + (16 - s.line.length)
        sr := BitVec.ofNat 16 (frameSum d), n := 16, ph := .xferd
        tr := s.tr ++ [.xfer16 (BitVec.ofNat 16 (frameSum d))] }) ∧
    (∀ d more, s.ph = .owned → s.line = d ++ more → d.length = 16 → step s = .next { s with
      turns := rest, line := more, sr := BitVec.ofNat 16 (frameSum d), n := 16, ph := .xferd
      tr := s.tr ++ [.xfer16 (BitVec.ofNat 16 (frameSum d))] }) ∧
    (s.ph = .xferd → step s = .next { s with
      turns := rest, own := false, per := none, ph := .released, tr := s.tr ++ [.busEnd] })

/-- R131: `CLOSE` clears `IM` if it is set, drives chip-select high, writes the raw word for `ACQ` and its decode for
`TEMPF` into `RSP`, and returns to `IDLE`, where the idle pins hold again. -/
def Obligations.CloseStepGivesTheResponse : Prop :=
  ∀ (s : State) (rest : List Turn), s.turns = .sequencer :: rest → s.rst = false → s.csN = false →
    (s.cfg.mode = .sw ∧ s.ph = .opened ∧ s.n = 16 ∨ s.cfg.mode = .hw ∧ s.ph = .released) →
    let close (r : Rsp) : State := { s with
      turns := rest, im := false, csN := true, rsp := r, rspValid := true, ph := .idle
      tr := s.tr ++ (if s.im then [.imClr, .csRise, .rsp r] else [.csRise, .rsp r]) }
    (s.cmdr.extractLsb' 16 3 = 0b000#3 → step s = .next (close (0x10000#17 ||| s.sr.setWidth 17))) ∧
    (s.cmdr.extractLsb' 16 3 = 0b100#3 → step s = .next (close (tempRsp s.sr))) ∧
    (Inv s → ∀ t, step s = .next t → t.pins = ⟨true, false, false, false⟩)

/-- R187: under the invariant the sequencer of a busy block is held exactly in `STOP` or `CONV` with `DLY` > 0
(`WaitTick`) and, in HW mode, in `OPEN` with `bus_avail` = 0 (`WaitBus`); everywhere else a micro-step is enabled. That a
held turn answers a next state in which only the turn is used up is the model's reading of R17's holds (log 8). -/
def Obligations.HoldsAreExactlyTheTwo : Prop :=
  ∀ s : State, Inv s → s.rst = false →
    ((s.ph = .stop ∨ s.ph = .conv) ∧ 0 < s.dly ↔ holdOf s = some .waitTick) ∧
    (s.cfg.mode = .hw ∧ s.ph = .opened ∧ s.busAvail = false ↔ holdOf s = some .waitBus) ∧
    (s.busy = true → ((enabledMicro s).isNone ↔ (holdOf s).isSome)) ∧
    (∀ rest, s.turns = .sequencer :: rest → (holdOf s).isSome → step s = .next { s with turns := rest })

/-- R196: a delay of `n` needs at least `n` ticks. While fewer ticks than `DLY` come, whatever turns of the sequencer, of
the bus owners and of the platform's interrupts come between, the block stays in its phase and emits nothing. A command
would be refused and a reset would end the delay; neither is among the turns. That a held turn of the sequencer is a next
state is the model's reading (log 8). -/
def Obligations.DelayIsALowerBound : Prop :=
  ∀ (us rest : List Turn) (s : State),
    s.turns = us ++ rest → s.rst = false → s.own = false → (s.ph = .stop ∨ s.ph = .conv) →
    (∀ u ∈ us, u = .tick ∨ u = .sequencer ∨ u = .interrupt ∨ ∃ a, u = .bus a) → us.count .tick < s.dly →
    ∃ t, steps us.length s = .next t ∧
      t.ph = s.ph ∧ t.tr = s.tr ∧ t.pins = s.pins ∧ t.dly = s.dly - us.count .tick ∧ t.turns = rest

/-- R65, R124: ticks, bus owners and the platform's interrupts change no event, no pin, no phase, no bit taken and no
response. -/
def Obligations.EnvironmentTurnsAreSilent : Prop :=
  ∀ (s t : State) (u : Turn) (rest : List Turn), s.turns = u :: rest →
    (u = .tick ∨ u = .interrupt ∨ ∃ a, u = .bus a) → step s = .next t →
    t.tr = s.tr ∧ t.pins = s.pins ∧ t.ph = s.ph ∧ t.n = s.n ∧ t.sr = s.sr ∧ t.rsp = s.rsp ∧
    t.rspValid = s.rspValid ∧ t.cmdr = s.cmdr ∧ t.per = s.per ∧ t.line = s.line ∧ t.rst = s.rst ∧ t.cfg = s.cfg

/-- 93_implementation_defined.md U9: another owner taking the bus while the block owns it is refused; otherwise
`bus_avail` just becomes the new level. The model's reading is log 11. -/
def Obligations.BusOwnersHonourTheBracket : Prop :=
  ∀ (s : State) (a : Bool) (rest : List Turn), s.turns = .bus a :: rest →
    (s.own = true → a = false → step s = .refused .busTakenInBracket) ∧
    (s.own = false ∨ a = true → step s = .next { s with turns := rest, busAvail := a })

/-! ## Reset and construction -/

/-- R42 (first reset): a block constructed from a legal configuration is idle, with released chip-select, low clock, bus
not owned, mask off, no valid response, an empty trace, and its configuration. That `State.reset` is the block built from
`Cfg.default` is the model's choice (log 2). -/
def Obligations.FirstResetState : Prop :=
  (∀ c : Cfg, c.legal = true → ∃ s, construct c = .next s ∧
    s.ph = .idle ∧ s.csN = true ∧ s.sck = false ∧ s.own = false ∧ s.im = false ∧ s.rspValid = false ∧ s.tr = [] ∧
    s.cfg = c ∧ s.rst = false) ∧
  construct Cfg.default = .next State.reset

/-- R212: a later reset ends the session and brings the pins to their idle levels in the order bus, mask, clock,
chip-select, each change an event and no other event; no response is valid; the trace is kept and so is the
configuration. -/
def Obligations.ResetReleasesThePins : Prop :=
  ∀ (s : State) (rest : List Turn), s.turns = .reset true :: rest →
    ∃ t, step s = .next t ∧ t.ph = .idle ∧ t.rspValid = false ∧ t.rst = true ∧
      t.pins = ⟨true, false, false, false⟩ ∧ (s.own = true → t.per = none) ∧
      t.tr = s.tr ++ (if s.own then [.busEnd] else []) ++ (if s.im then [.imClr] else []) ++
        (if s.sck then [.sckFall] else []) ++ (if s.csN then [] else [.csRise]) ∧
      t.cfg = s.cfg ∧ t.busAvail = s.busAvail ∧ t.line = s.line ∧ t.turns = rest

/-- R211: while RST = 1 the block is in the reset state and stays in it: a command is neither accepted nor refused; when
RST returns to 0 the block is in `IDLE` and accepts. That a command not seen, a tick and a sequencer's turn are then next
states in which only the turn is used up is the model's reading (log 13). -/
def Obligations.ResetLevelHoldsTheBlock : Prop :=
  ∀ (s : State), Inv s → s.rst = true →
    (s.ph = .idle ∧ s.pins = pinsOf s.cfg .idle ∧ s.rspValid = false) ∧
    (∀ c rest, s.turns = .command c :: rest → step s = .next { s with turns := rest }) ∧
    (∀ u rest, u = .tick ∨ u = .sequencer → s.turns = u :: rest → step s = .next { s with turns := rest }) ∧
    (∀ i rest, s.turns = .reset false :: .command (encode i) :: rest →
      step s = .next { s with rst := false, turns := .command (encode i) :: rest } ∧
      ∃ t, exec i { s with rst := false, turns := rest } = .next t ∧ t.cmdr = encode i ∧
        step { s with rst := false, turns := .command (encode i) :: rest } = .next t)

/-- R10, R37, R186: a configuration is refused exactly when SW mode lacks its clock or data line, HW mode has one of them,
`T_CSLOW` is 0, `F_SCK_HW` exceeds 4.3 MHz, or `ERROR_VALUE` is one of 0, 0.25, ..., 1023.75. R10 says the two lines are
present iff `MODE` = SW; that a HW configuration with one is refused as `IllegalConfig`, which R186 does not list, is the
model's reading (log 19). -/
def Obligations.IllegalConfigurationsAreRefused : Prop :=
  ∀ c : Cfg, construct c = .refused .illegalConfig ↔
    (c.mode = .sw ∧ (c.clkLine = none ∨ c.dataLine = none) ∨
      c.mode = .hw ∧ (c.clkLine ≠ none ∨ c.dataLine ≠ none) ∨ c.tCslow = 0 ∨ (43 / 10 : Rat) < c.fSckHw ∨
      ∃ k : Nat, k ≤ 4095 ∧ c.errorValue = (k : Rat) / 4)

/-- R10, R37, R215: no step writes the configuration. -/
def Obligations.ConfigurationIsNeverWritten : Prop :=
  ∀ s t : State, step s = .next t → t.cfg = s.cfg

/-! ## Invariants of every step -/

/-- The invariant holds of every block right after its construction (R41, R42, R213). -/
def Obligations.InvariantHoldsAtReset : Prop :=
  (∀ c : Cfg, Inv (State.resetOf c) ∧ InFlight (State.resetOf c)) ∧ Inv State.reset

/-- R28, R29, R33, R41, R127, R195: every step keeps the pins of the phase table, the ranges of `N` and `DLY`, the mode's
phases, the session, and the form of the response. -/
def Obligations.StepKeepsTheInvariant : Prop :=
  ∀ s t : State, Inv s → step s = .next t → Inv t

/-- R123, R132: every step keeps that the acquisition in progress has emitted exactly the events R132 prescribes so far,
and that `SR` holds the bits taken so far, the first the most significant. -/
def Obligations.StepKeepsTheAcquisitionTrace : Prop :=
  ∀ s t : State, Inv s → InFlight s → step s = .next t → InFlight t

/-- Under the invariant no step faults: the sequencer always has a micro-step, a hold or nothing to do (R187; the fault
is the model's own, log 10). -/
def Obligations.NoStepFaultsUnderTheInvariant : Prop :=
  ∀ (s : State) (f : Fault), Inv s → step s ≠ .fault f

/-- R132: the step that ends an acquisition leaves, at the end of the trace, the whole trace of that acquisition: the
required order, exactly 16 bits, and the response those bits give; it has 56 events in SW mode, 58 with the mask window,
11 in HW mode. -/
def Obligations.CloseCompletesTheTrace : Prop :=
  ∀ (s : State) (rest : List Turn), Inv s → InFlight s → s.rst = false → s.turns = .sequencer :: rest →
    enabledMicro s = some .close →
    ∃ t before d, step s = .next t ∧ t.ph = .idle ∧ t.rspValid = true ∧ d.length = 16 ∧
      t.rsp = responseTo s.cmdr d ∧ t.tr = before ++ acquisitionTrace s.cfg s.cmdr d t.rsp ∧
      (acquisitionTrace s.cfg s.cmdr d t.rsp).length =
        (if s.cfg.mode = .hw then 11 else if s.cfg.irqMaskEn then 58 else 56)

/-- R31, R32: `CS_n` changes only where an acquisition is started, triggered, opened or closed and at reset, and is 1
outside an acquisition; `SCK` changes only in `CLKHI`, `CLKLO` and at reset, and is 0 outside the pulses. -/
def Obligations.PinsChangeOnlyWhereTheRulesSay : Prop :=
  ∀ (s t : State) (u : Turn) (rest : List Turn), s.turns = u :: rest → step s = .next t →
    (t.csN ≠ s.csN → u = .reset true ∨ (∃ c, u = .command c ∧ s.ph = .idle ∧ (decode c = .ok .acq ∨ decode c = .ok .tempf)) ∨
      (u = .sequencer ∧ (enabledMicro s = some .trigger ∨ enabledMicro s = some .openf ∨ enabledMicro s = some .close))) ∧
    (t.sck ≠ s.sck → u = .reset true ∨
      (u = .sequencer ∧ (enabledMicro s = some .clkhi ∧ t.sck = true ∨ enabledMicro s = some .clklo ∧ t.sck = false))) ∧
    (Inv s → s.ph = .idle → s.csN = true) ∧
    (Inv s → s.sck = true → s.ph = .hi ∨ s.ph = .smp)

/-- R26: the response word changes only in a step that completes a command, which leaves it valid and last in the trace,
the block idle; or at reset, where the model lets it take any value (log 5). -/
def Obligations.ResponseChangesOnlyOnCompletion : Prop :=
  ∀ (s t : State) (u : Turn) (rest : List Turn), s.turns = u :: rest → step s = .next t → t.rsp ≠ s.rsp →
    u = .reset true ∨
    (t.rspValid = true ∧ t.ph = .idle ∧ (∃ before, t.tr = before ++ [.rsp t.rsp]) ∧
      ((∃ c, u = .command c) ∨ u = .sequencer ∧ enabledMicro s = some .close))

/-- R34: no step's enabling or result depends on the trace. Putting other events before the trace changes nothing but
that they stand there afterwards. -/
def Obligations.TraceIsNeverRead : Prop :=
  ∀ (s : State) (before : List Event),
    (∀ t, step s = .next t → step { s with tr := before ++ s.tr } = .next { t with tr := before ++ t.tr }) ∧
    (∀ f, step s = .fault f → step { s with tr := before ++ s.tr } = .fault f) ∧
    (∀ r, step s = .refused r → step { s with tr := before ++ s.tr } = .refused r)

/-- R34, C12: a step only adds events at the end of the trace; no step, a reset no more than another, takes one away. -/
def Obligations.TraceOnlyGrows : Prop :=
  ∀ s t : State, step s = .next t → ∃ es, t.tr = s.tr ++ es

/-- R41, R43: what earlier commands left in `SR`, `N`, `DLY`, `CMDR` and `RSP` never reaches a later command. Two idle
blocks that differ in those registers only, given the same command and then the same turns and the same answers of the
environment, have after any number of steps the same trace, the same pins, the same phase and the same answer, or stop
for the same reason. -/
def Obligations.LeftoversNeverReachALaterCommand : Prop :=
  ∀ (s : State) (i : Instr) (rest : List Turn) (sr : Word) (n : BitVec 5) (dly : Nat) (cmdr : Cmd) (rsp : Rsp)
    (valid : Bool) (k : Nat), s.rst = false → s.ph = .idle → s.turns = .command (encode i) :: rest →
    let s' : State := { s with sr := sr, n := n, dly := dly, cmdr := cmdr, rsp := rsp, rspValid := valid }
    (∀ t, steps (k + 1) s = .next t → ∃ t', steps (k + 1) s' = .next t' ∧
      t'.tr = t.tr ∧ t'.pins = t.pins ∧ t'.ph = t.ph ∧ t'.answer = t.answer) ∧
    (∀ f, steps (k + 1) s = .fault f → steps (k + 1) s' = .fault f) ∧
    (∀ r, steps (k + 1) s = .refused r → steps (k + 1) s' = .refused r)

/-! ## Whole acquisitions -/

/-- R133, R162: from a state that accepts commands, with the turns of V29 or V30 and 16 bits on the data line, `ACQ` gives
the raw word and `TEMPF` its decode, after `T_CSLOW + T_CONV` ticks and the sequencer steps of R199, with the whole trace
of R132, and the block is idle again. -/
def Obligations.AcquisitionRunsToItsResponse : Prop :=
  ∀ (s : State) (i : Instr) (d more : List Bool) (rest : List Turn),
    Ready s → (i = .acq ∨ i = .tempf) → (s.cfg.mode = .hw → s.busAvail = true) →
    s.turns = .command (encode i) :: (promptTurns s.cfg ++ rest) → s.line = d ++ more → d.length = 16 →
    ∃ t, steps (1 + (promptTurns s.cfg).length) s = .next t ∧
      t.rsp = (if i = .acq then mkRsp true (frameWord d) else tempRsp (frameWord d)) ∧ t.rspValid = true ∧
      t.ph = .idle ∧ t.pins = pinsOf s.cfg .idle ∧ t.tr = s.tr ++ acquisitionTrace s.cfg (encode i) d t.rsp ∧
      t.turns = rest ∧ t.line = more ∧ t.cfg = s.cfg ∧ t.rst = false ∧
      (promptTurns s.cfg).length = s.cfg.tCslow + s.cfg.tConv + (if s.cfg.mode = .sw then 51 else 6)

/-- R134: for the same 16 data bits and the same delays a SW-mode block and a HW-mode block give the same response to the
same operation, and their traces differ only between the second fall and the final rise of chip-select. -/
def Obligations.ModesAreEquivalent : Prop :=
  ∀ (s s' : State) (i : Instr) (d more more' : List Bool) (rest rest' : List Turn),
    Ready s → Ready s' → (i = .acq ∨ i = .tempf) → s.cfg.mode = .sw → s'.cfg.mode = .hw → s'.busAvail = true →
    s'.cfg.tCslow = s.cfg.tCslow → s'.cfg.tConv = s.cfg.tConv →
    s.turns = .command (encode i) :: (promptTurns s.cfg ++ rest) → s.line = d ++ more →
    s'.turns = .command (encode i) :: (promptTurns s'.cfg ++ rest') → s'.line = d ++ more' → d.length = 16 →
    ∃ t t' opening shift shift' r,
      steps (1 + (promptTurns s.cfg).length) s = .next t ∧
      steps (1 + (promptTurns s'.cfg).length) s' = .next t' ∧
      t.rsp = r ∧ t'.rsp = r ∧ t.rspValid = true ∧ t'.rspValid = true ∧
      opening = [.cmd (encode i), .csFall, .wait s.cfg.tCslow, .csRise, .wait s.cfg.tConv, .csFall] ∧
      t.tr = s.tr ++ opening ++ shift ++ [.csRise, .rsp r] ∧ t'.tr = s'.tr ++ opening ++ shift' ++ [.csRise, .rsp r] ∧
      .csRise ∉ shift ∧ .csFall ∉ shift ∧ .csRise ∉ shift' ∧ .csFall ∉ shift'

/-- R163: for the same draws `TEMPF` has the same pin and bus events as `ACQ`, its response is the decode of the word `ACQ`
answers, and `TEMP` of that word, presented next, gives that same response. -/
def Obligations.TempfIsAcqThenTemp : Prop :=
  ∀ (s : State) (d more : List Bool) (rest : List Turn),
    Ready s → (s.cfg.mode = .hw → s.busAvail = true) → s.line = d ++ more → d.length = 16 →
    ∃ t t' u events,
      steps (1 + (promptTurns s.cfg).length)
        { s with turns := .command (encode .acq) :: (promptTurns s.cfg ++ rest) } = .next t ∧
      steps (1 + (promptTurns s.cfg).length)
        { s with turns := .command (encode .tempf) :: (promptTurns s.cfg ++ rest) } = .next t' ∧
      t'.rsp = tempRsp (rspVal t.rsp) ∧
      t.tr = s.tr ++ [.cmd (encode .acq)] ++ events ++ [.rsp t.rsp] ∧
      t'.tr = s.tr ++ [.cmd (encode .tempf)] ++ events ++ [.rsp t'.rsp] ∧
      exec (.temp (rspVal t.rsp)) t = .next u ∧ u.rsp = t'.rsp

/-- R199: an accepted acquisition has `T_CSLOW + T_CONV` ticks and 51 sequencer steps (SW) or 6 (HW) left, `START` being
taken; every tick that is waited for and every enabled micro-step takes one off, no turn of an agent other than the host and
reset adds any, and none left means idle. -/
def Obligations.EveryUsefulTurnIsProgress : Prop :=
  (∀ s t : State, s.rst = false → s.ph = .idle → (exec .acq s = .next t ∨ exec .tempf s = .next t) →
    workLeft t = s.cfg.tCslow + s.cfg.tConv + (if s.cfg.mode = .sw then 51 else 6)) ∧
  (∀ (s t : State) (u : Turn) (rest : List Turn), Inv s → s.rst = false → s.turns = u :: rest →
    (u = .tick ∨ u = .sequencer ∨ u = .interrupt ∨ ∃ a, u = .bus a) → step s = .next t →
    workLeft t ≤ workLeft s ∧
    (u = .tick ∧ holdOf s = some .waitTick ∨ u = .sequencer ∧ (enabledMicro s).isSome →
      workLeft t + 1 = workLeft s)) ∧
  (∀ s : State, Inv s → (workLeft s = 0 ↔ s.ph = .idle))

/-- R70, R199: under `Ticks`, a weakly fair sequencer and, in HW mode, `BusFair` with the bracket honoured, every
acquisition ends: a block in the midst of one comes to `IDLE` with a valid response, the last event of its trace. The host
waits and no reset comes. How the premises and the endless run are put (`BusFair` while the block waits in `OPEN`,
`WeaklyFair`, `Undisturbed`, `runBy` over a schedule) is the model's reading (log 28). -/
def Obligations.EveryAcquisitionEnds : Prop :=
  ∀ (σ : Schedule) (s : State), Inv s → s.rst = false → s.busy = true → Undisturbed σ → Ticks σ → WeaklyFair σ s →
    (s.cfg.mode = .hw → BusFair σ s ∧ BracketHonoured σ s) →
    ∃ k t, runBy σ s k = .next t ∧ t.ph = .idle ∧ t.rspValid = true ∧ ∃ before, t.tr = before ++ [.rsp t.rsp]

/-- R199, R70: neither hold has a timeout. Without a tick the block stays in `STOP` or `CONV`, and without the bus it
stays in `OPEN` with chip-select low, emitting nothing, for as long as one likes; the premises of R199 cannot be left
out. That a held block answers a next state at every turn, the sequencer's included, is the model's reading of R17's holds
(log 8), and the schedules are log 28's. -/
def Obligations.NoTimeoutEndsAHold : Prop :=
  ∀ (σ : Schedule) (s : State), Inv s → s.rst = false → Undisturbed σ →
    ((s.ph = .stop ∨ s.ph = .conv) → 0 < s.dly → (∀ k, σ k ≠ .tick) →
      ∀ k, ∃ t, runBy σ s k = .next t ∧ t.ph = s.ph ∧ t.pins = s.pins ∧ t.tr = s.tr) ∧
    (s.cfg.mode = .hw → s.ph = .opened → s.busAvail = false → (∀ k, σ k ≠ .bus true) →
      ∀ k, ∃ t, runBy σ s k = .next t ∧ t.ph = .opened ∧ t.csN = false ∧ t.tr = s.tr)

/-! ## The decoder and the frame -/

/-- R54: position `k` of the frame is bit `15 - k` of the raw word, which is the sum of `d[k] * 2^(15 - k)`; so the
first position is the dummy sign bit, the next twelve the magnitude from its bit 11 down, then the fault flag, the
identity bit and the unused bit; and the byte that arrives first is the high byte. -/
def Obligations.FrameArrivesMostSignificantFirst : Prop :=
  ∀ d : List Bool, d.length = 16 →
    (∀ k, k < 16 → d[k]? = some ((frameWord d).getLsbD (15 - k))) ∧
    (frameWord d).toNat = ∑ k ∈ Finset.range 16, (d.getD k false).toNat * 2 ^ (15 - k) ∧
    d[0]? = some (dummy (frameWord d)) ∧
    (∀ j, j < 12 → d[1 + j]? = some ((mag (frameWord d)).getLsbD (11 - j))) ∧
    d[13]? = some (fault (frameWord d)) ∧ d[14]? = some (ident (frameWord d)) ∧
    d[15]? = some (unused (frameWord d)) ∧
    (frameWord d).toNat / 256 = frameSum (d.take 8)

/-- R123, R43: sixteen shifts of any prior content of `SR` leave exactly the sum of the bits, first the most significant,
so the raw word does not depend on what `SR` held. -/
def Obligations.SixteenShiftsSpellTheFrame : Prop :=
  ∀ (before : Word) (d : List Bool), d.length = 16 →
    d.foldl shiftIn before = BitVec.ofNat 16 (frameSum d)

/-- R181: for every sample with the fault flag set, whatever its other bits, `CONN` answers "not connected", `TEMP`
answers ERROR, and the last step of a `TEMPF` that took this sample answers ERROR; the block is idle afterwards and does
not try again. That it does not try again is put as a sequencer's turn in `IDLE` that only uses up the turn, which is the
model's reading (log 8). -/
def Obligations.FaultFlagMeansError : Prop :=
  ∀ (s : State) (w : Word), w.getLsbD 2 = true → s.rst = false →
    (s.ph = .idle →
      (∃ t, exec (.conn w) s = .next t ∧ t.rsp = 0x10000#17 ∧ t.rspValid = true ∧ t.ph = .idle) ∧
      ∃ t, exec (.temp w) s = .next t ∧ t.rsp = 0x00000#17 ∧ t.rspValid = true ∧ t.ph = .idle) ∧
    (∀ rest, s.turns = .sequencer :: .sequencer :: rest → enabledMicro s = some .close → s.cmdr = encode .tempf →
      s.sr = w → ∃ t, step s = .next t ∧ t.rsp = 0x00000#17 ∧ t.rspValid = true ∧ t.ph = .idle ∧
        step t = .next { t with turns := rest })

/-- R182: for every sample with the identity bit set, whatever its other bits, `CHID` answers "none", `TEMP` answers
ERROR, and the last step of a `TEMPF` that took this sample answers ERROR, the same response as for a set fault
flag. -/
def Obligations.IdentityBitMeansError : Prop :=
  ∀ (s : State) (w : Word), w.getLsbD 1 = true → s.rst = false →
    (s.ph = .idle →
      (∃ t, exec (.chid w) s = .next t ∧ t.rsp = 0x00000#17 ∧ t.rspValid = true ∧ t.ph = .idle) ∧
      ∃ t, exec (.temp w) s = .next t ∧ t.rsp = 0x00000#17 ∧ t.rspValid = true ∧ t.ph = .idle) ∧
    (∀ rest, s.turns = .sequencer :: rest → enabledMicro s = some .close → s.cmdr = encode .tempf → s.sr = w →
      ∃ t, step s = .next t ∧ t.rsp = 0x00000#17 ∧ t.rspValid = true ∧ t.ph = .idle)

/-- R151, R158: no decode operation reads bit 15 or bit 0 of the sample. -/
def Obligations.OuterBitsAreIgnored : Prop :=
  ∀ (c : Cfg) (w w' : Word), (∀ i, 1 ≤ i → i ≤ 14 → w.getLsbD i = w'.getLsbD i) →
    connRsp w = connRsp w' ∧ chidRsp c w = chidRsp c w' ∧ tempRsp w = tempRsp w'

/-- R159: the valid results of `TEMP` are exactly the 4096 values 0.0, 0.25, ..., 1023.75. -/
def Obligations.ValidResultsAreTheQuarterSteps : Prop :=
  ∀ (c : Cfg) (q : Rat),
    (∃ w, rspOk (tempRsp w) = true ∧ degrees c (tempRsp w) = q) ↔ ∃ k : Nat, k ≤ 4095 ∧ q = (k : Rat) / 4

/-- R166, R161: the rendering of a response is `VAL / 4` where `OK` = 1 and `ERROR_VALUE` where `OK` = 0, and in a legal
configuration an ERROR is never rendered as a valid result. -/
def Obligations.ErrorIsRenderedApart : Prop :=
  ∀ c : Cfg,
    (∀ r : Rsp, degrees c r = if rspOk r then ((rspVal r).toNat : Rat) / 4 else c.errorValue) ∧
    (c.legal = true → ∀ w w' : Word, rspOk (tempRsp w) = false → rspOk (tempRsp w') = true →
      degrees c (tempRsp w) ≠ degrees c (tempRsp w'))

/-- R61: the raw word of a healthy chip with a connected thermocouple never decodes to ERROR, and its response is the
chip's magnitude; a `TEMPF` with prompt turns, in which `T_CONV` time-units pass before the frame opens, so answers the
magnitude of the conversion it started. R221: of a frame opened before the chip's latency has passed the premise does not
hold. -/
def Obligations.HealthyConnectedChipIsNoError : Prop :=
  (∀ (d : List Bool) (latency waited m : Nat), ChipOK d false latency waited m →
    tempRsp (frameWord d) = mkRsp true (BitVec.ofNat 16 m) ∧ m ≤ 4095) ∧
  (∀ (s : State) (d more : List Bool) (rest : List Turn) (latency m : Nat),
    Ready s → (s.cfg.mode = .hw → s.busAvail = true) →
    s.turns = .command (encode .tempf) :: (promptTurns s.cfg ++ rest) → s.line = d ++ more →
    ChipOK d false latency s.cfg.tConv m →
    ∃ t, steps (1 + (promptTurns s.cfg).length) s = .next t ∧ t.rspValid = true ∧
      t.rsp = mkRsp true (BitVec.ofNat 16 m)) ∧
  ∀ (d : List Bool) (disconnected : Bool) (latency waited m : Nat), waited < latency →
    ¬ ChipOK d disconnected latency waited m

/-! ## The command notation -/

/-- R99: `temp` with no operand is `tempf`; `read` is `acq` then `temp $k` of its result, wherever it stands; every other
line is left as it is; `$k` is `rsp[k].VAL` and, for each of the three operations that take it, only of a line that is an
`acq`. That places are counted from 0 in the expanded stream, so that `read` takes two, is the model's choice
(log 23). -/
def Obligations.PseudoOperationsExpand : Prop :=
  (∀ (k : Nat) (rest : List AsmLine),
    expandFrom k (.temp none :: rest) = .tempf :: expandFrom (k + 1) rest ∧
    expandFrom k (.read :: rest) = .acq :: .temp (some (.answerOf k)) :: expandFrom (k + 2) rest ∧
    (∀ l, l ≠ .temp none → l ≠ .read → expandFrom k (l :: rest) = l :: expandFrom (k + 1) rest) ∧
    expandFrom k [] = []) ∧
  (∀ prog, expand prog = expandFrom 0 prog) ∧
  (∀ (prog : List AsmLine) (answers : List Rsp) (k : Nat) (r : Rsp), answers[k]? = some r →
    (prog[k]? = some .acq →
      lineInstr prog answers (.conn (.answerOf k)) = some (.conn (rspVal r)) ∧
      lineInstr prog answers (.chid (.answerOf k)) = some (.chid (rspVal r)) ∧
      lineInstr prog answers (.temp (some (.answerOf k))) = some (.temp (rspVal r))) ∧
    (prog[k]? ≠ some .acq →
      lineInstr prog answers (.conn (.answerOf k)) = none ∧ lineInstr prog answers (.chid (.answerOf k)) = none ∧
      lineInstr prog answers (.temp (some (.answerOf k))) = none))
end

