-- ==== Sys2Proof/Laws/Fields.lean ====
section
/-!
SUPPORT. The fields of command, response and raw words read back what was put in, and what shifting a bit in does to
the number a word holds.
-/

namespace Sys2Proof

theorem opField_packCommand (op : BitVec 3) (imm : Word) : opField (packCommand op imm) = op := by
  apply BitVec.eq_of_getLsbD_eq
  intro i hi
  simp only [opField, packCommand, BitVec.getLsbD_extractLsb', BitVec.getLsbD_append]
  simp [hi]

theorem immField_packCommand (op : BitVec 3) (imm : Word) : immField (packCommand op imm) = imm := by
  apply BitVec.eq_of_getLsbD_eq
  intro i hi
  simp only [immField, packCommand, BitVec.getLsbD_extractLsb', BitVec.getLsbD_append]
  simp [hi]

/-- A command word is its two fields. -/
theorem packCommand_fields (c : Cmd) : packCommand (opField c) (immField c) = c := by
  apply BitVec.eq_of_getLsbD_eq
  intro i hi
  simp only [opField, immField, packCommand, BitVec.getLsbD_append, BitVec.getLsbD_extractLsb']
  by_cases h : i < 16
  · simp [h]
  · have h3 : i - 16 < 3 := by omega
    have h16 : 16 + (i - 16) = i := by omega
    simp [h, h3, h16]

end Sys2Proof

namespace Sys2Proof.Machine

@[simp] theorem rspOk_mkRsp (ok : Bool) (v : Word) : rspOk (mkRsp ok v) = ok := by
  rw [rspOk, mkRsp, BitVec.getLsbD_append]
  cases ok <;> rfl

@[simp] theorem rspVal_mkRsp (ok : Bool) (v : Word) : rspVal (mkRsp ok v) = v := by
  apply BitVec.eq_of_getLsbD_eq
  intro i hi
  simp only [rspVal, mkRsp, BitVec.getLsbD_extractLsb', BitVec.getLsbD_append]
  simp [hi]

theorem zext16_toNat (b : Bool) : (zext16 b).toNat = b.toNat := by cases b <;> rfl

/-- Shifting a bit in doubles the word, adds the bit, and drops what leaves at the top (R120, R165). -/
theorem shiftIn_toNat (w : Word) (b : Bool) : (shiftIn w b).toNat = (2 * w.toNat + b.toNat) % 2 ^ 16 := by
  have hdisj : (w <<< 1) &&& zext16 b = 0 := by
    apply BitVec.eq_of_getLsbD_eq
    intro i hi
    rcases Nat.eq_zero_or_pos i with rfl | h
    · simp
    · cases b <;> simp [zext16, show i ≠ 0 by omega]
  have hadd : shiftIn w b = (w <<< 1) + zext16 b := by
    rw [shiftIn, BitVec.add_eq_or_of_and_eq_zero _ _ hdisj]
  rw [hadd, BitVec.toNat_add, BitVec.toNat_shiftLeft, zext16_toNat, Nat.shiftLeft_eq]
  omega

theorem frameSum_append (d e : List Bool) : frameSum (d ++ e) = frameSum d * 2 ^ e.length + frameSum e := by
  induction d with
  | nil => simp [frameSum]
  | cons b d ih => simp [frameSum, ih, pow_add]; ring

/-- The bits of a frame spell a number of as many bits. -/
theorem frameSum_lt (d : List Bool) : frameSum d < 2 ^ d.length := by
  induction d with
  | nil => simp [frameSum]
  | cons b d ih => cases b <;> simp [frameSum, pow_succ] <;> omega

theorem frameSum_snoc (d : List Bool) (b : Bool) : frameSum (d ++ [b]) = 2 * frameSum d + b.toNat := by
  rw [frameSum_append]
  cases b <;> simp [frameSum] <;> omega

/-- The loop invariant of R123, one iteration. -/
theorem shiftIn_frameSum {sr : Word} {d : List Bool} (h : sr.toNat = frameSum d % 2 ^ 16) (b : Bool) :
    (shiftIn sr b).toNat = frameSum (d ++ [b]) % 2 ^ 16 := by
  rw [shiftIn_toNat, frameSum_snoc, h]
  omega

theorem frameWord_toNat (d : List Bool) : (frameWord d).toNat = frameSum d % 2 ^ 16 := by
  simp [frameWord]

end Sys2Proof.Machine
end

