-- ==== Sys2Proof/Laws/State.lean ====
section
/-!
SUPPORT. What each named update leaves in each field of State: one lemma per field per update, so that no proof unfolds
a record update.
-/

namespace Sys2Proof.Machine

variable (s : State)

/-! ### `emit` -/

@[simp] theorem State.emit_cfg (e : Event) : (s.emit e).cfg = s.cfg := rfl
@[simp] theorem State.emit_ph (e : Event) : (s.emit e).ph = s.ph := rfl
@[simp] theorem State.emit_csN (e : Event) : (s.emit e).csN = s.csN := rfl
@[simp] theorem State.emit_sck (e : Event) : (s.emit e).sck = s.sck := rfl
@[simp] theorem State.emit_own (e : Event) : (s.emit e).own = s.own := rfl
@[simp] theorem State.emit_im (e : Event) : (s.emit e).im = s.im := rfl
@[simp] theorem State.emit_sr (e : Event) : (s.emit e).sr = s.sr := rfl
@[simp] theorem State.emit_n (e : Event) : (s.emit e).n = s.n := rfl
@[simp] theorem State.emit_dly (e : Event) : (s.emit e).dly = s.dly := rfl
@[simp] theorem State.emit_cmdr (e : Event) : (s.emit e).cmdr = s.cmdr := rfl
@[simp] theorem State.emit_rsp (e : Event) : (s.emit e).rsp = s.rsp := rfl
@[simp] theorem State.emit_rspValid (e : Event) : (s.emit e).rspValid = s.rspValid := rfl
@[simp] theorem State.emit_rst (e : Event) : (s.emit e).rst = s.rst := rfl
@[simp] theorem State.emit_busAvail (e : Event) : (s.emit e).busAvail = s.busAvail := rfl
@[simp] theorem State.emit_per (e : Event) : (s.emit e).per = s.per := rfl
@[simp] theorem State.emit_tr (e : Event) : (s.emit e).tr = s.tr ++ [e] := rfl
@[simp] theorem State.emit_turns (e : Event) : (s.emit e).turns = s.turns := rfl
@[simp] theorem State.emit_line (e : Event) : (s.emit e).line = s.line := rfl
@[simp] theorem State.emit_fresh (e : Event) : (s.emit e).fresh = s.fresh := rfl

/-! ### `goto` -/

@[simp] theorem State.goto_cfg (p : Phase) : (s.goto p).cfg = s.cfg := rfl
@[simp] theorem State.goto_ph (p : Phase) : (s.goto p).ph = p := rfl
@[simp] theorem State.goto_csN (p : Phase) : (s.goto p).csN = s.csN := rfl
@[simp] theorem State.goto_sck (p : Phase) : (s.goto p).sck = s.sck := rfl
@[simp] theorem State.goto_own (p : Phase) : (s.goto p).own = s.own := rfl
@[simp] theorem State.goto_im (p : Phase) : (s.goto p).im = s.im := rfl
@[simp] theorem State.goto_sr (p : Phase) : (s.goto p).sr = s.sr := rfl
@[simp] theorem State.goto_n (p : Phase) : (s.goto p).n = s.n := rfl
@[simp] theorem State.goto_dly (p : Phase) : (s.goto p).dly = s.dly := rfl
@[simp] theorem State.goto_cmdr (p : Phase) : (s.goto p).cmdr = s.cmdr := rfl
@[simp] theorem State.goto_rsp (p : Phase) : (s.goto p).rsp = s.rsp := rfl
@[simp] theorem State.goto_rspValid (p : Phase) : (s.goto p).rspValid = s.rspValid := rfl
@[simp] theorem State.goto_rst (p : Phase) : (s.goto p).rst = s.rst := rfl
@[simp] theorem State.goto_busAvail (p : Phase) : (s.goto p).busAvail = s.busAvail := rfl
@[simp] theorem State.goto_per (p : Phase) : (s.goto p).per = s.per := rfl
@[simp] theorem State.goto_tr (p : Phase) : (s.goto p).tr = s.tr := rfl
@[simp] theorem State.goto_turns (p : Phase) : (s.goto p).turns = s.turns := rfl
@[simp] theorem State.goto_line (p : Phase) : (s.goto p).line = s.line := rfl
@[simp] theorem State.goto_fresh (p : Phase) : (s.goto p).fresh = s.fresh := rfl

/-! ### `setShift` -/

@[simp] theorem State.setShift_cfg (w : Word) : (s.setShift w).cfg = s.cfg := rfl
@[simp] theorem State.setShift_ph (w : Word) : (s.setShift w).ph = s.ph := rfl
@[simp] theorem State.setShift_csN (w : Word) : (s.setShift w).csN = s.csN := rfl
@[simp] theorem State.setShift_sck (w : Word) : (s.setShift w).sck = s.sck := rfl
@[simp] theorem State.setShift_own (w : Word) : (s.setShift w).own = s.own := rfl
@[simp] theorem State.setShift_im (w : Word) : (s.setShift w).im = s.im := rfl
@[simp] theorem State.setShift_sr (w : Word) : (s.setShift w).sr = w := rfl
@[simp] theorem State.setShift_n (w : Word) : (s.setShift w).n = s.n := rfl
@[simp] theorem State.setShift_dly (w : Word) : (s.setShift w).dly = s.dly := rfl
@[simp] theorem State.setShift_cmdr (w : Word) : (s.setShift w).cmdr = s.cmdr := rfl
@[simp] theorem State.setShift_rsp (w : Word) : (s.setShift w).rsp = s.rsp := rfl
@[simp] theorem State.setShift_rspValid (w : Word) : (s.setShift w).rspValid = s.rspValid := rfl
@[simp] theorem State.setShift_rst (w : Word) : (s.setShift w).rst = s.rst := rfl
@[simp] theorem State.setShift_busAvail (w : Word) : (s.setShift w).busAvail = s.busAvail := rfl
@[simp] theorem State.setShift_per (w : Word) : (s.setShift w).per = s.per := rfl
@[simp] theorem State.setShift_tr (w : Word) : (s.setShift w).tr = s.tr := rfl
@[simp] theorem State.setShift_turns (w : Word) : (s.setShift w).turns = s.turns := rfl
@[simp] theorem State.setShift_line (w : Word) : (s.setShift w).line = s.line := rfl
@[simp] theorem State.setShift_fresh (w : Word) : (s.setShift w).fresh = s.fresh := rfl

/-! ### `setCount` -/

@[simp] theorem State.setCount_cfg (k : BitVec 5) : (s.setCount k).cfg = s.cfg := rfl
@[simp] theorem State.setCount_ph (k : BitVec 5) : (s.setCount k).ph = s.ph := rfl
@[simp] theorem State.setCount_csN (k : BitVec 5) : (s.setCount k).csN = s.csN := rfl
@[simp] theorem State.setCount_sck (k : BitVec 5) : (s.setCount k).sck = s.sck := rfl
@[simp] theorem State.setCount_own (k : BitVec 5) : (s.setCount k).own = s.own := rfl
@[simp] theorem State.setCount_im (k : BitVec 5) : (s.setCount k).im = s.im := rfl
@[simp] theorem State.setCount_sr (k : BitVec 5) : (s.setCount k).sr = s.sr := rfl
@[simp] theorem State.setCount_n (k : BitVec 5) : (s.setCount k).n = k := rfl
@[simp] theorem State.setCount_dly (k : BitVec 5) : (s.setCount k).dly = s.dly := rfl
@[simp] theorem State.setCount_cmdr (k : BitVec 5) : (s.setCount k).cmdr = s.cmdr := rfl
@[simp] theorem State.setCount_rsp (k : BitVec 5) : (s.setCount k).rsp = s.rsp := rfl
@[simp] theorem State.setCount_rspValid (k : BitVec 5) : (s.setCount k).rspValid = s.rspValid := rfl
@[simp] theorem State.setCount_rst (k : BitVec 5) : (s.setCount k).rst = s.rst := rfl
@[simp] theorem State.setCount_busAvail (k : BitVec 5) : (s.setCount k).busAvail = s.busAvail := rfl
@[simp] theorem State.setCount_per (k : BitVec 5) : (s.setCount k).per = s.per := rfl
@[simp] theorem State.setCount_tr (k : BitVec 5) : (s.setCount k).tr = s.tr := rfl
@[simp] theorem State.setCount_turns (k : BitVec 5) : (s.setCount k).turns = s.turns := rfl
@[simp] theorem State.setCount_line (k : BitVec 5) : (s.setCount k).line = s.line := rfl
@[simp] theorem State.setCount_fresh (k : BitVec 5) : (s.setCount k).fresh = s.fresh := rfl

/-! ### `loadDelay` -/

@[simp] theorem State.loadDelay_cfg (k : Nat) : (s.loadDelay k).cfg = s.cfg := rfl
@[simp] theorem State.loadDelay_ph (k : Nat) : (s.loadDelay k).ph = s.ph := rfl
@[simp] theorem State.loadDelay_csN (k : Nat) : (s.loadDelay k).csN = s.csN := rfl
@[simp] theorem State.loadDelay_sck (k : Nat) : (s.loadDelay k).sck = s.sck := rfl
@[simp] theorem State.loadDelay_own (k : Nat) : (s.loadDelay k).own = s.own := rfl
@[simp] theorem State.loadDelay_im (k : Nat) : (s.loadDelay k).im = s.im := rfl
@[simp] theorem State.loadDelay_sr (k : Nat) : (s.loadDelay k).sr = s.sr := rfl
@[simp] theorem State.loadDelay_n (k : Nat) : (s.loadDelay k).n = s.n := rfl
@[simp] theorem State.loadDelay_dly (k : Nat) : (s.loadDelay k).dly = k := rfl
@[simp] theorem State.loadDelay_cmdr (k : Nat) : (s.loadDelay k).cmdr = s.cmdr := rfl
@[simp] theorem State.loadDelay_rsp (k : Nat) : (s.loadDelay k).rsp = s.rsp := rfl
@[simp] theorem State.loadDelay_rspValid (k : Nat) : (s.loadDelay k).rspValid = s.rspValid := rfl
@[simp] theorem State.loadDelay_rst (k : Nat) : (s.loadDelay k).rst = s.rst := rfl
@[simp] theorem State.loadDelay_busAvail (k : Nat) : (s.loadDelay k).busAvail = s.busAvail := rfl
@[simp] theorem State.loadDelay_per (k : Nat) : (s.loadDelay k).per = s.per := rfl
@[simp] theorem State.loadDelay_tr (k : Nat) : (s.loadDelay k).tr = s.tr ++ [.wait k] := rfl
@[simp] theorem State.loadDelay_turns (k : Nat) : (s.loadDelay k).turns = s.turns := rfl
@[simp] theorem State.loadDelay_line (k : Nat) : (s.loadDelay k).line = s.line := rfl
@[simp] theorem State.loadDelay_fresh (k : Nat) : (s.loadDelay k).fresh = s.fresh := rfl

/-! ### `driveCs` -/

@[simp] theorem State.driveCs_cfg (v : Bool) : (s.driveCs v).cfg = s.cfg := rfl
@[simp] theorem State.driveCs_ph (v : Bool) : (s.driveCs v).ph = s.ph := rfl
@[simp] theorem State.driveCs_csN (v : Bool) : (s.driveCs v).csN = v := rfl
@[simp] theorem State.driveCs_sck (v : Bool) : (s.driveCs v).sck = s.sck := rfl
@[simp] theorem State.driveCs_own (v : Bool) : (s.driveCs v).own = s.own := rfl
@[simp] theorem State.driveCs_im (v : Bool) : (s.driveCs v).im = s.im := rfl
@[simp] theorem State.driveCs_sr (v : Bool) : (s.driveCs v).sr = s.sr := rfl
@[simp] theorem State.driveCs_n (v : Bool) : (s.driveCs v).n = s.n := rfl
@[simp] theorem State.driveCs_dly (v : Bool) : (s.driveCs v).dly = s.dly := rfl
@[simp] theorem State.driveCs_cmdr (v : Bool) : (s.driveCs v).cmdr = s.cmdr := rfl
@[simp] theorem State.driveCs_rsp (v : Bool) : (s.driveCs v).rsp = s.rsp := rfl
@[simp] theorem State.driveCs_rspValid (v : Bool) : (s.driveCs v).rspValid = s.rspValid := rfl
@[simp] theorem State.driveCs_rst (v : Bool) : (s.driveCs v).rst = s.rst := rfl
@[simp] theorem State.driveCs_busAvail (v : Bool) : (s.driveCs v).busAvail = s.busAvail := rfl
@[simp] theorem State.driveCs_per (v : Bool) : (s.driveCs v).per = s.per := rfl
@[simp] theorem State.driveCs_tr (v : Bool) : (s.driveCs v).tr = s.tr ++ csEdge s.csN v := rfl
@[simp] theorem State.driveCs_turns (v : Bool) : (s.driveCs v).turns = s.turns := rfl
@[simp] theorem State.driveCs_line (v : Bool) : (s.driveCs v).line = s.line := rfl
@[simp] theorem State.driveCs_fresh (v : Bool) : (s.driveCs v).fresh = s.fresh := rfl

/-! ### `driveSck` -/

@[simp] theorem State.driveSck_cfg (v : Bool) : (s.driveSck v).cfg = s.cfg := rfl
@[simp] theorem State.driveSck_ph (v : Bool) : (s.driveSck v).ph = s.ph := rfl
@[simp] theorem State.driveSck_csN (v : Bool) : (s.driveSck v).csN = s.csN := rfl
@[simp] theorem State.driveSck_sck (v : Bool) : (s.driveSck v).sck = v := rfl
@[simp] theorem State.driveSck_own (v : Bool) : (s.driveSck v).own = s.own := rfl
@[simp] theorem State.driveSck_im (v : Bool) : (s.driveSck v).im = s.im := rfl
@[simp] theorem State.driveSck_sr (v : Bool) : (s.driveSck v).sr = s.sr := rfl
@[simp] theorem State.driveSck_n (v : Bool) : (s.driveSck v).n = s.n := rfl
@[simp] theorem State.driveSck_dly (v : Bool) : (s.driveSck v).dly = s.dly := rfl
@[simp] theorem State.driveSck_cmdr (v : Bool) : (s.driveSck v).cmdr = s.cmdr := rfl
@[simp] theorem State.driveSck_rsp (v : Bool) : (s.driveSck v).rsp = s.rsp := rfl
@[simp] theorem State.driveSck_rspValid (v : Bool) : (s.driveSck v).rspValid = s.rspValid := rfl
@[simp] theorem State.driveSck_rst (v : Bool) : (s.driveSck v).rst = s.rst := rfl
@[simp] theorem State.driveSck_busAvail (v : Bool) : (s.driveSck v).busAvail = s.busAvail := rfl
@[simp] theorem State.driveSck_per (v : Bool) : (s.driveSck v).per = s.per := rfl
@[simp] theorem State.driveSck_tr (v : Bool) : (s.driveSck v).tr = s.tr ++ [if v then .sckRise else .sckFall] := rfl
@[simp] theorem State.driveSck_turns (v : Bool) : (s.driveSck v).turns = s.turns := rfl
@[simp] theorem State.driveSck_line (v : Bool) : (s.driveSck v).line = s.line := rfl
@[simp] theorem State.driveSck_fresh (v : Bool) : (s.driveSck v).fresh = s.fresh := rfl

/-! ### `driveIm` -/

@[simp] theorem State.driveIm_cfg (v : Bool) : (s.driveIm v).cfg = s.cfg := rfl
@[simp] theorem State.driveIm_ph (v : Bool) : (s.driveIm v).ph = s.ph := rfl
@[simp] theorem State.driveIm_csN (v : Bool) : (s.driveIm v).csN = s.csN := rfl
@[simp] theorem State.driveIm_sck (v : Bool) : (s.driveIm v).sck = s.sck := rfl
@[simp] theorem State.driveIm_own (v : Bool) : (s.driveIm v).own = s.own := rfl
@[simp] theorem State.driveIm_im (v : Bool) : (s.driveIm v).im = v := rfl
@[simp] theorem State.driveIm_sr (v : Bool) : (s.driveIm v).sr = s.sr := rfl
@[simp] theorem State.driveIm_n (v : Bool) : (s.driveIm v).n = s.n := rfl
@[simp] theorem State.driveIm_dly (v : Bool) : (s.driveIm v).dly = s.dly := rfl
@[simp] theorem State.driveIm_cmdr (v : Bool) : (s.driveIm v).cmdr = s.cmdr := rfl
@[simp] theorem State.driveIm_rsp (v : Bool) : (s.driveIm v).rsp = s.rsp := rfl
@[simp] theorem State.driveIm_rspValid (v : Bool) : (s.driveIm v).rspValid = s.rspValid := rfl
@[simp] theorem State.driveIm_rst (v : Bool) : (s.driveIm v).rst = s.rst := rfl
@[simp] theorem State.driveIm_busAvail (v : Bool) : (s.driveIm v).busAvail = s.busAvail := rfl
@[simp] theorem State.driveIm_per (v : Bool) : (s.driveIm v).per = s.per := rfl
@[simp] theorem State.driveIm_tr (v : Bool) : (s.driveIm v).tr = s.tr ++ [if v then .imSet else .imClr] := rfl
@[simp] theorem State.driveIm_turns (v : Bool) : (s.driveIm v).turns = s.turns := rfl
@[simp] theorem State.driveIm_line (v : Bool) : (s.driveIm v).line = s.line := rfl
@[simp] theorem State.driveIm_fresh (v : Bool) : (s.driveIm v).fresh = s.fresh := rfl

/-! ### `takeBus` -/

@[simp] theorem State.takeBus_cfg : s.takeBus.cfg = s.cfg := rfl
@[simp] theorem State.takeBus_ph : s.takeBus.ph = s.ph := rfl
@[simp] theorem State.takeBus_csN : s.takeBus.csN = s.csN := rfl
@[simp] theorem State.takeBus_sck : s.takeBus.sck = s.sck := rfl
@[simp] theorem State.takeBus_own : s.takeBus.own = true := rfl
@[simp] theorem State.takeBus_im : s.takeBus.im = s.im := rfl
@[simp] theorem State.takeBus_sr : s.takeBus.sr = s.sr := rfl
@[simp] theorem State.takeBus_n : s.takeBus.n = s.n := rfl
@[simp] theorem State.takeBus_dly : s.takeBus.dly = s.dly := rfl
@[simp] theorem State.takeBus_cmdr : s.takeBus.cmdr = s.cmdr := rfl
@[simp] theorem State.takeBus_rsp : s.takeBus.rsp = s.rsp := rfl
@[simp] theorem State.takeBus_rspValid : s.takeBus.rspValid = s.rspValid := rfl
@[simp] theorem State.takeBus_rst : s.takeBus.rst = s.rst := rfl
@[simp] theorem State.takeBus_busAvail : s.takeBus.busAvail = s.busAvail := rfl
@[simp] theorem State.takeBus_per : s.takeBus.per = some (perSettings s.cfg) := rfl
@[simp] theorem State.takeBus_tr : s.takeBus.tr = s.tr ++ [.busBegin] := rfl
@[simp] theorem State.takeBus_turns : s.takeBus.turns = s.turns := rfl
@[simp] theorem State.takeBus_line : s.takeBus.line = s.line := rfl
@[simp] theorem State.takeBus_fresh : s.takeBus.fresh = s.fresh := rfl

/-! ### `releaseBus` -/

@[simp] theorem State.releaseBus_cfg : s.releaseBus.cfg = s.cfg := rfl
@[simp] theorem State.releaseBus_ph : s.releaseBus.ph = s.ph := rfl
@[simp] theorem State.releaseBus_csN : s.releaseBus.csN = s.csN := rfl
@[simp] theorem State.releaseBus_sck : s.releaseBus.sck = s.sck := rfl
@[simp] theorem State.releaseBus_own : s.releaseBus.own = false := rfl
@[simp] theorem State.releaseBus_im : s.releaseBus.im = s.im := rfl
@[simp] theorem State.releaseBus_sr : s.releaseBus.sr = s.sr := rfl
@[simp] theorem State.releaseBus_n : s.releaseBus.n = s.n := rfl
@[simp] theorem State.releaseBus_dly : s.releaseBus.dly = s.dly := rfl
@[simp] theorem State.releaseBus_cmdr : s.releaseBus.cmdr = s.cmdr := rfl
@[simp] theorem State.releaseBus_rsp : s.releaseBus.rsp = s.rsp := rfl
@[simp] theorem State.releaseBus_rspValid : s.releaseBus.rspValid = s.rspValid := rfl
@[simp] theorem State.releaseBus_rst : s.releaseBus.rst = s.rst := rfl
@[simp] theorem State.releaseBus_busAvail : s.releaseBus.busAvail = s.busAvail := rfl
@[simp] theorem State.releaseBus_per : s.releaseBus.per = none := rfl
@[simp] theorem State.releaseBus_tr : s.releaseBus.tr = s.tr ++ [.busEnd] := rfl
@[simp] theorem State.releaseBus_turns : s.releaseBus.turns = s.turns := rfl
@[simp] theorem State.releaseBus_line : s.releaseBus.line = s.line := rfl
@[simp] theorem State.releaseBus_fresh : s.releaseBus.fresh = s.fresh := rfl

/-! ### `latchCommand` -/

@[simp] theorem State.latchCommand_cfg (c : Cmd) : (s.latchCommand c).cfg = s.cfg := rfl
@[simp] theorem State.latchCommand_ph (c : Cmd) : (s.latchCommand c).ph = s.ph := rfl
@[simp] theorem State.latchCommand_csN (c : Cmd) : (s.latchCommand c).csN = s.csN := rfl
@[simp] theorem State.latchCommand_sck (c : Cmd) : (s.latchCommand c).sck = s.sck := rfl
@[simp] theorem State.latchCommand_own (c : Cmd) : (s.latchCommand c).own = s.own := rfl
@[simp] theorem State.latchCommand_im (c : Cmd) : (s.latchCommand c).im = s.im := rfl
@[simp] theorem State.latchCommand_sr (c : Cmd) : (s.latchCommand c).sr = s.sr := rfl
@[simp] theorem State.latchCommand_n (c : Cmd) : (s.latchCommand c).n = s.n := rfl
@[simp] theorem State.latchCommand_dly (c : Cmd) : (s.latchCommand c).dly = s.dly := rfl
@[simp] theorem State.latchCommand_cmdr (c : Cmd) : (s.latchCommand c).cmdr = c := rfl
@[simp] theorem State.latchCommand_rsp (c : Cmd) : (s.latchCommand c).rsp = s.rsp := rfl
@[simp] theorem State.latchCommand_rspValid (c : Cmd) : (s.latchCommand c).rspValid = false := rfl
@[simp] theorem State.latchCommand_rst (c : Cmd) : (s.latchCommand c).rst = s.rst := rfl
@[simp] theorem State.latchCommand_busAvail (c : Cmd) : (s.latchCommand c).busAvail = s.busAvail := rfl
@[simp] theorem State.latchCommand_per (c : Cmd) : (s.latchCommand c).per = s.per := rfl
@[simp] theorem State.latchCommand_tr (c : Cmd) : (s.latchCommand c).tr = s.tr ++ [.cmd c] := rfl
@[simp] theorem State.latchCommand_turns (c : Cmd) : (s.latchCommand c).turns = s.turns := rfl
@[simp] theorem State.latchCommand_line (c : Cmd) : (s.latchCommand c).line = s.line := rfl
@[simp] theorem State.latchCommand_fresh (c : Cmd) : (s.latchCommand c).fresh = s.fresh := rfl

/-! ### `respond` -/

@[simp] theorem State.respond_cfg (r : Rsp) : (s.respond r).cfg = s.cfg := rfl
@[simp] theorem State.respond_ph (r : Rsp) : (s.respond r).ph = s.ph := rfl
@[simp] theorem State.respond_csN (r : Rsp) : (s.respond r).csN = s.csN := rfl
@[simp] theorem State.respond_sck (r : Rsp) : (s.respond r).sck = s.sck := rfl
@[simp] theorem State.respond_own (r : Rsp) : (s.respond r).own = s.own := rfl
@[simp] theorem State.respond_im (r : Rsp) : (s.respond r).im = s.im := rfl
@[simp] theorem State.respond_sr (r : Rsp) : (s.respond r).sr = s.sr := rfl
@[simp] theorem State.respond_n (r : Rsp) : (s.respond r).n = s.n := rfl
@[simp] theorem State.respond_dly (r : Rsp) : (s.respond r).dly = s.dly := rfl
@[simp] theorem State.respond_cmdr (r : Rsp) : (s.respond r).cmdr = s.cmdr := rfl
@[simp] theorem State.respond_rsp (r : Rsp) : (s.respond r).rsp = r := rfl
@[simp] theorem State.respond_rspValid (r : Rsp) : (s.respond r).rspValid = true := rfl
@[simp] theorem State.respond_rst (r : Rsp) : (s.respond r).rst = s.rst := rfl
@[simp] theorem State.respond_busAvail (r : Rsp) : (s.respond r).busAvail = s.busAvail := rfl
@[simp] theorem State.respond_per (r : Rsp) : (s.respond r).per = s.per := rfl
@[simp] theorem State.respond_tr (r : Rsp) : (s.respond r).tr = s.tr ++ [.rsp r] := rfl
@[simp] theorem State.respond_turns (r : Rsp) : (s.respond r).turns = s.turns := rfl
@[simp] theorem State.respond_line (r : Rsp) : (s.respond r).line = s.line := rfl
@[simp] theorem State.respond_fresh (r : Rsp) : (s.respond r).fresh = s.fresh := rfl

end Sys2Proof.Machine
end

