-- ==== Sys2Proof/Laws/Ops.lean ====
section
/-!
SUPPORT. For each shared operation, once, everything it can do.
-/

namespace Sys2Proof.Machine

/-! ### Edges -/

@[simp] theorem csEdge_same (v : Bool) : csEdge v v = [] := by cases v <;> rfl
@[simp] theorem csEdge_fall : csEdge true false = [.csFall] := rfl
@[simp] theorem csEdge_rise : csEdge false true = [.csRise] := rfl

/-! ### Draws -/

@[simp] theorem sampleData_listed {s : State} {b : Bool} {rest : List Bool} (h : s.line = b :: rest) :
    sampleData s = (b, { s with line := rest }) := by
  simp [sampleData, h]

@[simp] theorem sampleData_free {s : State} (h : s.line = []) :
    sampleData s = (Config.freeBit s.fresh, { s with fresh := s.fresh + 1 }) := by
  simp [sampleData, h]

/-- A draw changes only the bits listed and the counter of free values. -/
theorem sampleData_frame (s : State) :
    ∃ line fresh, (sampleData s).2 = { s with line := line, fresh := fresh } := by
  unfold sampleData
  split
  · exact ⟨_, _, rfl⟩
  · exact ⟨s.line, _, rfl⟩

/-- `k` draws give `k` bits, and change only the bits listed and the counter of free values. -/
theorem drawBits_frame (k : Nat) (s : State) :
    (drawBits k s).1.length = k ∧
    ∃ line fresh, (drawBits k s).2 = { s with line := line, fresh := fresh } := by
  induction k generalizing s with
  | zero => exact ⟨rfl, s.line, s.fresh, rfl⟩
  | succ k ih =>
    obtain ⟨l, f, h₁⟩ := sampleData_frame s
    obtain ⟨hlen, l', f', h₂⟩ := ih (sampleData s).2
    exact ⟨by simp [drawBits, hlen], l', f', by simp only [drawBits]; rw [h₂, h₁]⟩

/-- One draw, in full: the first bit listed, else a free value. -/
theorem sampleData_eq (s : State) : sampleData s =
    ((s.line[0]?).getD (Config.freeBit s.fresh),
      { s with line := s.line.drop 1, fresh := s.fresh + (1 - s.line.length) }) := by
  unfold sampleData
  cases h : s.line with
  | nil => simp
  | cons b r => simp

/-- `k` draws, in full: the bits listed come first, and what they leave open are free values in the order of the
counter. -/
theorem drawBits_eq (k : Nat) (s : State) :
    (∀ j, j < k →
      (drawBits k s).1[j]? = some ((s.line[j]?).getD (Config.freeBit (s.fresh + (j - s.line.length))))) ∧
    (drawBits k s).2 = { s with line := s.line.drop k, fresh := s.fresh + (k - s.line.length) } := by
  induction k generalizing s with
  | zero => exact ⟨by simp, by simp [drawBits]⟩
  | succ k ih =>
    have hs := sampleData_eq s
    obtain ⟨h1, h2⟩ := ih (sampleData s).2
    simp only [drawBits]
    refine ⟨?_, ?_⟩
    · intro j hj
      cases j with
      | zero => simp [hs]
      | succ j =>
        rw [List.getElem?_cons_succ, h1 j (by omega), hs]
        simp only [List.getElem?_drop, List.length_drop]
        rw [Nat.add_comm 1 j]
        by_cases hl : j + 1 < s.line.length
        · simp [hl]
        · have hnone : s.line[j + 1]? = none := by simp; omega
          rw [hnone, show s.fresh + (1 - s.line.length) + (j - (s.line.length - 1)) =
            s.fresh + (j + 1 - s.line.length) by omega]
    · rw [h2, hs]
      simp only [List.drop_drop, List.length_drop]
      congr 1
      · rw [Nat.add_comm]
      · omega

/-- Which turns are listed is nothing to a draw. -/
theorem drawBits_turns (k : Nat) (s : State) (turns : List Turn) :
    drawBits k { s with turns := turns } = ((drawBits k s).1, { (drawBits k s).2 with turns := turns }) := by
  induction k generalizing s with
  | zero => rfl
  | succ k ih =>
    have hs : sampleData { s with turns := turns } = ((sampleData s).1, { (sampleData s).2 with turns := turns }) := by
      simp only [sampleData_eq]
    simp only [drawBits, hs, ih]

/-- Bits that are listed are drawn in their order. -/
theorem drawBits_listed (d rest : List Bool) (s : State) (h : s.line = d ++ rest) :
    drawBits d.length s = (d, { s with line := rest }) := by
  induction d generalizing s with
  | nil => rw [List.nil_append] at h; rw [← h]; rfl
  | cons b d ih =>
    have hs : sampleData s = (b, { s with line := d ++ rest }) := sampleData_listed h
    simp only [List.length_cons, drawBits, hs]
    rw [ih _ rfl]

/-! ### Acceptance (R87) -/

/-- Where a command can be accepted, it is. -/
theorem accept_ready {c : Cmd} {run : State → State} {s : State} (hr : s.rst = false) (hp : s.ph = .idle) :
    accept c run s = .next (run (s.latchCommand c)) := by
  simp [accept, hr, hp]

/-- Everything acceptance can do. -/
theorem accept_cases (c : Cmd) (run : State → State) (s : State) :
    (s.rst = true ∧ accept c run s = .next s) ∨
    (s.rst = false ∧ s.ph ≠ .idle ∧ accept c run s = .refused .commandWhileBusy) ∨
    (s.rst = false ∧ s.ph = .idle ∧ accept c run s = .next (run (s.latchCommand c))) := by
  unfold accept
  cases hr : s.rst
  · by_cases hp : s.ph = .idle <;> simp [hp]
  · simp

/-! ### Reset (R212) -/

/-- The events R212 emits. -/
def resetEvents (s : State) : List Event :=
  (if s.own then [.busEnd] else []) ++ (if s.im then [.imClr] else []) ++
    (if s.sck then [.sckFall] else []) ++ csEdge s.csN true

/-- The pins go idle, the session ends with the bus, and nothing else changes. -/
theorem releasePins_eq (s : State) :
    releasePins s = { s with
      csN := true, sck := false, own := false, im := false
      per := if s.own then none else s.per
      tr := s.tr ++ resetEvents s } := by
  cases s with
  | mk cfg ph csN sck own im sr n dly cmdr rsp rspValid rst busAvail per tr turns line fresh =>
    cases own <;> cases im <;> cases sck <;>
      simp [releasePins, resetEvents, State.releaseBus, State.driveIm, State.driveSck, State.driveCs]

/-! ### Construction (R37, R186) -/

theorem construct_legal {c : Cfg} (h : c.legal = true) : construct c = .next (State.resetOf c) := by
  simp [construct, h]

theorem construct_illegal {c : Cfg} (h : c.legal = false) : construct c = .refused .illegalConfig := by
  simp [construct, h]

/-- The value the model takes for `ERROR_VALUE` is never a valid result (R166). -/
theorem errorValue_distinct : isValidResult Config.errorValue = false := by
  unfold Config.errorValue
  cases h : isValidResult Config.errorSeed
  · simp [h]
  · rw [if_pos rfl]; decide

end Sys2Proof.Machine
end

