-- ==== Sys2Proof/Laws/PerInstr.lean ====
section
/-!
SUPPORT. One lemma per operation: its command word selects exactly its own row of the opcode map, and is one of the
words that have a meaning (30_encoding.md R88, R95).
-/

namespace Sys2Proof.Laws.TableRow

open Sys2Proof Sys2Proof.Machine

/-- The word of the operation selects one row, the one with the operation's mnemonic (R88), and is not reserved (R95). -/
def Statement (i : Instr) : Prop :=
  (opcodeMap.filter (fun r => r.selects (encode i))).map OpRow.mnemonic = [i.mnemonic] ∧
  commandWellFormed (encode i) = true

/-- The mask of the three rows with an operand keeps the operation code. -/
theorem packCommand_and_opMask (op : BitVec 3) (w : Word) : packCommand op w &&& 0x70000#19 = packCommand op 0 := by
  rw [show (0x70000#19) = (7#3 ++ 0#16) from rfl, packCommand, packCommand, BitVec.and_append]
  congr 1
  · exact BitVec.and_allOnes (x := op)
  · simp

/-- The mask of the two rows without an operand keeps the whole word. -/
theorem cmd_and_fullMask (c : Cmd) : c &&& 0x7FFFF#19 = c := BitVec.and_allOnes (x := c)

theorem packCommand_inj {a b : BitVec 3} {x y : Word} : packCommand a x = packCommand b y ↔ a = b ∧ x = y := by
  constructor
  · intro h
    exact ⟨by simpa [opField_packCommand] using congrArg opField h,
      by simpa [immField_packCommand] using congrArg immField h⟩
  · rintro ⟨rfl, rfl⟩
    rfl

/-- What the five rows say of a word with code `op` and operand `w`. -/
theorem selects_packCommand (op : BitVec 3) (w : Word) :
    opcodeMap.map (fun r => r.selects (packCommand op w)) =
      [decide (op = 0 ∧ w = 0), decide (op = 1), decide (op = 2), decide (op = 3), decide (op = 4 ∧ w = 0)] := by
  have k0 : (0x00000#19) = packCommand 0#3 0 := rfl
  have k1 : (0x10000#19) = packCommand 1#3 0 := rfl
  have k2 : (0x20000#19) = packCommand 2#3 0 := rfl
  have k3 : (0x30000#19) = packCommand 3#3 0 := rfl
  have k4 : (0x40000#19) = packCommand 4#3 0 := rfl
  simp only [opcodeMap, OpRow.selects, List.map, cmd_and_fullMask, packCommand_and_opMask, k0, k1, k2, k3, k4,
    beq_eq_decide, packCommand_inj, and_true]
  rfl

theorem acq : Statement .acq := by unfold Statement; decide

theorem tempf : Statement .tempf := by unfold Statement; decide

/-- The three rows with an operand, at once. -/
theorem withOperand (op : BitVec 3) (w : Word) (h : op = 1 ∨ op = 2 ∨ op = 3) :
    (opcodeMap.filter (fun r => r.selects (packCommand op w))).map OpRow.mnemonic =
      [if op = 1 then "CONN" else if op = 2 then "CHID" else "TEMP"] ∧
    commandWellFormed (packCommand op w) = true := by
  have hs := selects_packCommand op w
  simp only [opcodeMap, List.map, List.cons.injEq, and_true] at hs
  obtain ⟨h0, h1, h2, h3, h4⟩ := hs
  have hop : (packCommand op w).extractLsb' 16 3 = op := opField_packCommand op w
  simp only [opcodeMap, List.filter, h0, h1, h2, h3, h4, commandWellFormed, hop]
  rcases h with rfl | rfl | rfl <;> simp

theorem conn (w : Word) : Statement (.conn w) := withOperand 1 w (.inl rfl)

theorem chid (w : Word) : Statement (.chid w) := withOperand 2 w (.inr (.inl rfl))

theorem temp (w : Word) : Statement (.temp w) := withOperand 3 w (.inr (.inr rfl))

end Sys2Proof.Laws.TableRow
end

