-- ==== Sys2Proof/Laws/Sequencer.lean ====
section
/-!
SUPPORT. What each micro-step leaves in the state, as one equation, and everything a turn of the sequencer can do.
-/

namespace Sys2Proof.Machine

/-- Opening the mask window changes `IM` and the trace only, and only where the window is used (R116, R122). -/
theorem openMask_eq (s : State) :
    openMask s = { s with
      im := s.im || maskUsed s.cfg
      tr := s.tr ++ if maskUsed s.cfg then [.imSet] else [] } := by
  unfold openMask
  split <;> simp_all [State.driveIm]

/-- Closing the mask window changes `IM` and the trace only, and only where it is open (R131). -/
theorem closeMask_eq (s : State) :
    closeMask s = { s with
      im := false
      tr := s.tr ++ if s.im then [.imClr] else [] } := by
  cases s with
  | mk cfg ph csN sck own im =>
    cases im <;> simp [closeMask, State.driveIm]

theorem microStart_eq (s : State) : microStart s = { s with
    csN := false, dly := s.cfg.tCslow, ph := .stop
    tr := s.tr ++ csEdge s.csN false ++ [.wait s.cfg.tCslow] } := rfl

theorem microTrigger_eq (s : State) : microTrigger s = { s with
    csN := true, dly := s.cfg.tConv, ph := .conv
    tr := s.tr ++ csEdge s.csN true ++ [.wait s.cfg.tConv] } := rfl

theorem microOpenf_eq (s : State) : microOpenf s = { s with
    csN := false, sr := 0, n := 0, im := s.im || maskUsed s.cfg, ph := .opened
    tr := s.tr ++ csEdge s.csN false ++ if maskUsed s.cfg then [.imSet] else [] } := by
  unfold microOpenf
  rw [openMask_eq]
  rfl

theorem microClkhi_eq (s : State) : microClkhi s = { s with
    sck := true, ph := .hi, tr := s.tr ++ [.sckRise] } := rfl

/-- `SAMPLE` takes one bit, puts it into `SR` and the trace, and draws nothing else. -/
theorem microSample_eq (s : State) : ∃ b line fresh, microSample s = { s with
    sr := shiftIn s.sr b, ph := .smp, tr := s.tr ++ [.sample b], line := line, fresh := fresh } := by
  obtain ⟨l, f, h⟩ := sampleData_frame s
  exact ⟨(sampleData s).1, l, f, by simp only [microSample, h]; rfl⟩

/-- The same where the bit is listed. -/
theorem microSample_listed {s : State} {b : Bool} {rest : List Bool} (h : s.line = b :: rest) :
    microSample s = { s with
      sr := shiftIn s.sr b, ph := .smp, tr := s.tr ++ [.sample b], line := rest } := by
  simp only [microSample, sampleData_listed h]
  rfl

theorem microClklo_eq (s : State) : microClklo s = { s with
    sck := false, n := s.n + 1, ph := .opened, tr := s.tr ++ [.sckFall] } := rfl

theorem microBegin_eq (s : State) : microBegin s = { s with
    own := true, per := some (perSettings s.cfg), ph := .owned, tr := s.tr ++ [.busBegin] } := rfl

/-- `XFER` takes 16 bits, puts the word they spell into `SR` and the trace, and draws nothing else. -/
theorem microXfer_eq (s : State) : ∃ d line fresh, d.length = 16 ∧ microXfer s = { s with
    sr := frameWord d, n := 16, ph := .xferd, tr := s.tr ++ [.xfer16 (frameWord d)]
    line := line, fresh := fresh } := by
  obtain ⟨hlen, l, f, h⟩ := drawBits_frame 16 s
  unfold microXfer xfer16
  generalize drawBits 16 s = p at hlen h ⊢
  obtain ⟨d, s₁⟩ := p
  subst h
  exact ⟨d, l, f, hlen, rfl⟩

/-- The same, saying which bits: those of `drawBits`. -/
theorem microXfer_draws (s : State) : microXfer s = { s with
    sr := frameWord (drawBits 16 s).1, n := 16, ph := .xferd, tr := s.tr ++ [.xfer16 (frameWord (drawBits 16 s).1)]
    line := s.line.drop 16, fresh := s.fresh + (16 - s.line.length) } := by
  have h := (drawBits_eq 16 s).2
  unfold microXfer xfer16
  generalize drawBits 16 s = p at h ⊢
  obtain ⟨d, s₁⟩ := p
  subst h
  rfl

/-- The same where the bits are listed. -/
theorem microXfer_listed {s : State} {d rest : List Bool} (hlen : d.length = 16) (h : s.line = d ++ rest) :
    microXfer s = { s with
      sr := frameWord d, n := 16, ph := .xferd, tr := s.tr ++ [.xfer16 (frameWord d)], line := rest } := by
  have hd := drawBits_listed d rest s h
  rw [hlen] at hd
  unfold microXfer xfer16
  generalize drawBits 16 s = p at hd ⊢
  subst hd
  rfl

theorem microEnd_eq (s : State) : microEnd s = { s with
    own := false, per := none, ph := .released, tr := s.tr ++ [.busEnd] } := rfl

theorem microClose_eq (s : State) : microClose s = { s with
    im := false, csN := true, rsp := closeRsp s, rspValid := true, ph := .idle
    tr := s.tr ++ (if s.im then [.imClr] else []) ++ csEdge s.csN true ++ [.rsp (closeRsp s)] } := by
  unfold microClose
  rw [closeMask_eq]
  rfl

/-- What a micro-step being enabled says of the state (R113, R116, R119 to R121, R126, R128, R130, R131). -/
theorem enabledMicro_cases {s : State} {m : Micro} (h : enabledMicro s = some m) :
    (m = .trigger ∧ s.ph = .stop ∧ s.dly = 0) ∨
    (m = .openf ∧ s.ph = .conv ∧ s.dly = 0) ∨
    (m = .clkhi ∧ s.ph = .opened ∧ s.cfg.mode = .sw ∧ s.n < 16) ∨
    (m = .sample ∧ s.ph = .hi) ∨
    (m = .clklo ∧ s.ph = .smp) ∨
    (m = .beginBus ∧ s.ph = .opened ∧ s.cfg.mode = .hw ∧ s.busAvail = true) ∨
    (m = .xfer ∧ s.ph = .owned) ∨
    (m = .endBus ∧ s.ph = .xferd) ∨
    (m = .close ∧ (s.cfg.mode = .sw ∧ s.ph = .opened ∧ s.n = 16 ∨ s.cfg.mode = .hw ∧ s.ph = .released)) := by
  unfold enabledMicro at h
  cases hp : s.ph <;> cases hm : s.cfg.mode <;> simp only [hp, hm] at h <;> (try split at h) <;>
    (try split at h) <;> simp_all

/-- Everything a turn of the sequencer can do when it answers a next state. -/
theorem sequencerTurn_next {s t : State} (h : sequencerTurn s = .next t) :
    (∃ m, enabledMicro s = some m ∧ t = runMicro m s) ∨
    (enabledMicro s = none ∧ t = s ∧ (s.ph = .idle ∨ (holdOf s).isSome)) := by
  unfold sequencerTurn at h
  split at h
  · next m hm => exact .inl ⟨m, hm, by simpa using h.symm⟩
  · next hm =>
    split at h
    · next hi => exact .inr ⟨hm, by simpa using h.symm, hi⟩
    · cases h

end Sys2Proof.Machine
end

