-- ==== Sys2Proof/Laws/Step.lean ====
section
/-!
SUPPORT. Everything an operation, a turn and a step can do when they answer a next state.
-/

namespace Sys2Proof.Machine

/-- Every operation is accepted under its own word; what it then does is `START`, or giving a response whose `VAL` is
zero if its `OK` is (R87, R91). -/
theorem exec_eq (i : Instr) (s : State) :
    ((i = .acq ∨ i = .tempf) ∧ exec i s = accept (encode i) microStart s) ∨
    (∃ r, (rspOk r = false → rspVal r = 0) ∧ exec i s = accept (encode i) (State.respond r) s) := by
  cases i with
  | acq => exact .inl ⟨.inl rfl, rfl⟩
  | tempf => exact .inl ⟨.inr rfl, rfl⟩
  | conn w => exact .inr ⟨connRsp w, by simp [connRsp], rfl⟩
  | chid w =>
    refine .inr ⟨chidRsp s.cfg w, ?_, rfl⟩
    unfold chidRsp
    split <;> simp
  | temp w =>
    refine .inr ⟨tempRsp w, ?_, rfl⟩
    unfold tempRsp
    split <;> (try split) <;> simp

/-- Everything the host's turn can do when it answers a next state: nothing during reset, else an accepted operation. -/
theorem hostTurn_next {c : Cmd} {s t : State} (h : hostTurn c s = .next t) :
    (s.rst = true ∧ t = s) ∨
    (s.rst = false ∧ s.ph = .idle ∧ ∃ i, decode c = .ok i ∧
      (((i = .acq ∨ i = .tempf) ∧ t = microStart (s.latchCommand (encode i))) ∨
       ∃ r, (rspOk r = false → rspVal r = 0) ∧ t = (s.latchCommand (encode i)).respond r)) := by
  unfold hostTurn at h
  split at h
  · next i hi =>
    obtain ⟨hk, he⟩ | ⟨r, hr, he⟩ := exec_eq i s <;> rw [he] at h
    · obtain ⟨h1, h2⟩ | ⟨h1, h2, h3⟩ | ⟨h1, h2, h3⟩ := accept_cases (encode i) microStart s
      · exact .inl ⟨h1, by simpa [h2] using h.symm⟩
      · simp [h3] at h
      · exact .inr ⟨h1, h2, i, hi, .inl ⟨hk, by simpa [h3] using h.symm⟩⟩
    · obtain ⟨h1, h2⟩ | ⟨h1, h2, h3⟩ | ⟨h1, h2, h3⟩ := accept_cases (encode i) (State.respond r) s
      · exact .inl ⟨h1, by simpa [h2] using h.symm⟩
      · simp [h3] at h
      · exact .inr ⟨h1, h2, i, hi, .inr ⟨r, hr, by simpa [h3] using h.symm⟩⟩
  · split at h
    · next hr => exact .inl ⟨hr, by simpa using h.symm⟩
    · split at h <;> cases h

theorem nextTurn_listed {s : State} {u : Turn} {rest : List Turn} (h : s.turns = u :: rest) :
    nextTurn s = (u, { s with turns := rest }) := by
  simp [nextTurn, h]

theorem step_listed {s : State} {u : Turn} {rest : List Turn} (h : s.turns = u :: rest) :
    step s = act u { s with turns := rest } := by
  simp [step, nextTurn_listed h]

/-- Choosing the next turn changes only the turns listed and the counter of free values. -/
theorem nextTurn_frame (s : State) :
    ∃ turns fresh, (nextTurn s).2 = { s with turns := turns, fresh := fresh } := by
  unfold nextTurn
  split
  · exact ⟨_, s.fresh, rfl⟩
  · exact ⟨s.turns, _, rfl⟩

/-- Everything a turn can do when it answers a next state. -/
theorem act_next {u : Turn} {s t : State} (h : act u s = .next t) :
    t = s ∨
    (∃ c i, u = .command c ∧ s.rst = false ∧ s.ph = .idle ∧ decode c = .ok i ∧ (i = .acq ∨ i = .tempf) ∧
      t = microStart (s.latchCommand (encode i))) ∨
    (∃ c i r, u = .command c ∧ s.rst = false ∧ s.ph = .idle ∧ decode c = .ok i ∧
      (rspOk r = false → rspVal r = 0) ∧ t = (s.latchCommand (encode i)).respond r) ∨
    (∃ m, u = .sequencer ∧ s.rst = false ∧ enabledMicro s = some m ∧ t = runMicro m s) ∨
    (u = .tick ∧ s.rst = false ∧ 0 < s.dly ∧ t = { s with dly := s.dly - 1 }) ∨
    (∃ a, u = .bus a ∧ (s.own = true → a = true) ∧ t = { s with busAvail := a }) ∨
    (u = .reset true ∧ t = { resetBlock s with rst := true }) ∨
    (u = .reset false ∧ t = { s with rst := false }) := by
  cases u with
  | command c =>
    obtain ⟨-, h⟩ | ⟨h1, h2, i, h3, ⟨h4, h5⟩ | ⟨r, h4, h5⟩⟩ := hostTurn_next h
    · exact .inl h
    · exact .inr (.inl ⟨c, i, rfl, h1, h2, h3, h4, h5⟩)
    · exact .inr (.inr (.inl ⟨c, i, r, rfl, h1, h2, h3, h4, h5⟩))
  | sequencer =>
    simp only [act] at h
    split at h
    · exact .inl (by simpa using h.symm)
    · next hr =>
      obtain ⟨m, hm, ht⟩ | ⟨-, ht, -⟩ := sequencerTurn_next h
      · exact .inr (.inr (.inr (.inl ⟨m, rfl, by simpa using hr, hm, ht⟩)))
      · exact .inl ht
  | tick =>
    simp only [act, tickTurn] at h
    split at h
    · exact .inl (by simpa using h.symm)
    · next hr =>
      split at h
      · next hd =>
        exact .inr (.inr (.inr (.inr (.inl ⟨rfl, by simpa using hr, hd, by simpa using h.symm⟩))))
      · exact .inl (by simpa using h.symm)
  | bus a =>
    simp only [act, busTurn] at h
    split at h
    · cases h
    · next ho =>
      refine .inr (.inr (.inr (.inr (.inr (.inl ⟨a, rfl, ?_, by simpa using h.symm⟩)))))
      intro hs
      simpa [hs] using ho
  | reset level =>
    cases level with
    | true =>
      exact .inr (.inr (.inr (.inr (.inr (.inr (.inl ⟨rfl, by simpa [act, resetTurn] using h.symm⟩))))))
    | false =>
      exact .inr (.inr (.inr (.inr (.inr (.inr (.inr ⟨rfl, by simpa [act, resetTurn] using h.symm⟩))))))
  | interrupt => exact .inl (by simpa [act] using h.symm)

theorem act_sequencer {s : State} {m : Micro} (hr : s.rst = false) (he : enabledMicro s = some m) :
    act .sequencer s = .next (runMicro m s) := by
  simp [act, hr, sequencerTurn, he]

/-- The sequencer's turn outside reset runs the micro-step that is enabled. -/
theorem step_sequencer {s : State} {rest : List Turn} {m : Micro} (h : s.turns = .sequencer :: rest)
    (hr : s.rst = false) (he : enabledMicro s = some m) :
    step s = .next (runMicro m { s with turns := rest }) := by
  rw [step_listed h]
  exact act_sequencer hr he

/-- A tick that is waited for takes one off the delay. -/
theorem step_tick {s : State} {rest : List Turn} (h : s.turns = .tick :: rest) (hr : s.rst = false)
    (hd : 0 < s.dly) : step s = .next { s with turns := rest, dly := s.dly - 1 } := by
  rw [step_listed h]
  simp [act, hr, tickTurn, hd]

/-- What a later reset leaves (R212, R42). -/
theorem resetBlock_eq (s : State) : ∃ sr n dly cmdr rsp, n.toNat ≤ 16 ∧ dly ≤ max s.cfg.tCslow s.cfg.tConv ∧
    resetBlock s = { s with
      ph := .idle, csN := true, sck := false, own := false, im := false
      per := if s.own then none else s.per
      tr := s.tr ++ resetEvents s, rspValid := false
      sr := sr, n := n, dly := dly, cmdr := cmdr, rsp := rsp, fresh := s.fresh + 1 } := by
  refine ⟨Config.freeSr s.fresh, BitVec.ofNat 5 (Config.freeN s.fresh).val,
    Config.freeDly s.fresh % (max s.cfg.tCslow s.cfg.tConv + 1), Config.freeCmdr s.fresh, Config.freeRsp s.fresh,
    ?_, ?_, ?_⟩
  · have := (Config.freeN s.fresh).isLt
    simp only [BitVec.toNat_ofNat]
    omega
  · exact Nat.le_of_lt_succ (Nat.mod_lt _ (Nat.succ_pos _))
  · unfold resetBlock
    rw [releasePins_eq]
    rfl

end Sys2Proof.Machine
end

