-- ==== Sys2Proof/Laws/Runs.lean ====
section
/-!
SUPPORT. Several steps in a row.
-/

namespace Sys2Proof.Machine

@[simp] theorem steps_zero (s : State) : steps 0 s = .next s := rfl

/-- A run that begins with a step to `t` goes on from `t`. -/
theorem steps_succ {s t : State} {k : Nat} (h : step s = .next t) : steps (k + 1) s = steps k t := by
  simp [steps, h]

@[simp] theorem runBy_zero (σ : Schedule) (s : State) : runBy σ s 0 = .next s := rfl

/-- A run by a schedule goes on with the schedule's next turn. -/
theorem runBy_succ {σ : Schedule} {s t : State} {k : Nat} (h : runBy σ s k = .next t) :
    runBy σ s (k + 1) = act (σ k) t := by
  simp only [runBy, h]
  exact step_listed rfl

end Sys2Proof.Machine
end

