-- ==== Sys2Proof/Tests/Slice0.lean ====
section
/-!
SUPPORT. Tests: ill-formed terms refused, words written out bit by bit from the spec's encodings, single steps with the
results the spec's vectors give (95_test_vectors.md), and for each statement a state and operands that meet its premises.
-/

namespace Sys2Proof.Tests

open Sys2Proof Sys2Proof.Machine

/-! ## The bench -/

/-- A legal configuration: the small delays of vector V35. The code and the error value are this bench's own. -/
def bench (m : Mode) (mask : Bool) : Cfg where
  mode := m
  csLine := 10
  clkLine := if m = .sw then some 11 else none
  dataLine := if m = .sw then some 12 else none
  irqMaskEn := mask
  tCslow := 2
  tConv := 3
  fSckHw := 4
  chipId := 0x0ABC
  errorValue := -1
  timeUnit := 1

def sw : Cfg := bench .sw false
def masked : Cfg := bench .sw true
def hw : Cfg := bench .hw false

/-- The block idle, with the turns and the bits of the data line that come next. -/
def idle (c : Cfg) (turns : List Turn) (line : List Bool) : State :=
  { State.resetOf c with busAvail := true, turns := turns, line := line }

/-- The block inside the acquisition the word `w` asked for, the bits `d` taken so far. -/
def during (c : Cfg) (w : Cmd) (p : Phase) (n : BitVec 5) (dly : Nat) (d : List Bool) (turns : List Turn)
    (line : List Bool) : State :=
  { State.resetOf c with
    ph := p
    csN := (pinsOf c p).csN
    sck := (pinsOf c p).sck
    own := (pinsOf c p).own
    im := (pinsOf c p).im
    sr := frameWord d
    n := n
    dly := dly
    cmdr := w
    busAvail := true
    per := if (pinsOf c p).own then some (perSettings c) else none
    tr := eventsSoFar c w d p
    turns := turns
    line := line }

/-- The 16 bits of `0x0320`, the first to arrive first (V29). -/
def frame0320 : List Bool :=
  [false, false, false, false, false, false, true, true, false, false, true, false, false, false, false, false]

/-- Does the outcome go on, in a state of which `p` holds? -/
def goesOn (o : Host.Outcome State Fault Refusal) (p : State → Bool) : Bool :=
  match o with
  | .next t => p t
  | .fault _ => false
  | .refused _ => false

/-- Is the outcome this refusal? -/
def refusedAs (o : Host.Outcome State Fault Refusal) (r : Refusal) : Bool :=
  match o with
  | .next _ => false
  | .fault _ => false
  | .refused q => q == r

/-! ## Ill-formed terms (R37, R95, R186) -/

theorem test_clock_line_missing : { sw with clkLine := none }.legal = false := by decide
theorem test_data_line_missing : { sw with dataLine := none }.legal = false := by decide
theorem test_hw_with_clock_line : { hw with clkLine := some 11 }.legal = false := by decide
theorem test_hw_with_both_lines : { hw with clkLine := some 11, dataLine := some 12 }.legal = false := by decide
theorem test_no_hold_time : { sw with tCslow := 0 }.legal = false := by decide
theorem test_rate_above_rating : { hw with fSckHw := 44 / 10 }.rateWithinRating = false := by
  simp only [Cfg.rateWithinRating]; norm_num
theorem test_rate_at_rating : { hw with fSckHw := 43 / 10 }.rateWithinRating = true := by
  simp only [Cfg.rateWithinRating]; norm_num
theorem test_error_value_in_range : { sw with errorValue := 25 }.legal = false := by decide
theorem test_least_hold_time : { sw with tCslow := 1 }.legal = true := by decide
theorem test_hw_has_no_lines : hw.legal = true := by decide
theorem test_illegal_not_constructed : construct { sw with tCslow := 0 } = .refused .illegalConfig := rfl
theorem test_reserved_codes : [0x50000#19, 0x60000#19, 0x70000#19, 0x7FFFF#19].all (fun c => !commandWellFormed c) = true := by
  decide
theorem test_operand_not_allowed : [0x00001#19, 0x00007#19, 0x40001#19].all (fun c => !commandWellFormed c) = true := by
  decide
theorem test_wellformed_words : [0x00000#19, 0x10000#19, 0x1FFFF#19, 0x20001#19, 0x3FFFF#19, 0x40000#19].all commandWellFormed = true := by
  decide

/-! ## Words written out bit by bit (R88, V37) -/

theorem test_decode_acq : decode 0b000_0000000000000000#19 = .ok .acq := by decide
theorem test_decode_conn : decode 0b001_0101010101010101#19 = .ok (.conn 0x5555#16) := by decide
theorem test_decode_chid : decode 0b010_1010101010101010#19 = .ok (.chid 0xAAAA#16) := by decide
theorem test_decode_temp : decode 0b011_1111111111111001#19 = .ok (.temp 0xFFF9#16) := by decide
theorem test_decode_tempf : decode 0b100_0000000000000000#19 = .ok .tempf := by decide
theorem test_decode_reserved : decode 0b101_0000000000000000#19 = .error .opcode := by decide
theorem test_decode_acq_operand : decode 0b000_0000000000000111#19 = .error .acqOperand := by decide
theorem test_decode_tempf_operand : decode 0b100_1000000000000000#19 = .error .tempfOperand := by decide
theorem test_table_word : decodeTableWord 24 0x30320 = some (.temp 0x0320#16) := by decide
theorem test_table_word_too_wide : decodeTableWord 24 0x80000 = none := by decide

/-! ## One step of each operation (95_test_vectors.md) -/

/-- V3, V4: the fault flag decides and the identity bit does not enter. -/
theorem test_conn : (goesOn (exec (.conn 0x0004) (idle sw [] [])) (fun t => t.rsp == 0x10000#17) &&
    goesOn (exec (.conn 0x0002) (idle sw [] [])) (fun t => t.rsp == 0x10001#17 && t.cmdr == 0x10002#19)) = true := by decide

/-- V4, V3: the identity bit decides and the fault flag does not enter. -/
theorem test_chid : (goesOn (exec (.chid 0x0002) (idle sw [] [])) (fun t => t.rsp == 0x00000#17 && t.rspValid) &&
    goesOn (exec (.chid 0x0004) (idle sw [] [])) (fun t => t.rsp == 0x10ABC#17)) = true := by decide

/-- V9, V25: bit 15 is no sign, and the magnitude is bits 14 to 3. -/
theorem test_temp : (goesOn (exec (.temp 0xFFF9) (idle hw [] [])) (fun t => t.rsp == 0x10FFF#17) &&
    goesOn (exec (.temp 0x0648) (idle hw [] [])) (fun t => t.rsp == 0x100C9#17)) = true := by decide

/-- V20, V17: each check alone gives ERROR, whatever the magnitude. -/
theorem test_temp_error : (goesOn (exec (.temp 0x1234) (idle sw [] [])) (fun t => t.rsp == 0x00000#17) &&
    goesOn (exec (.temp 0xFFFB) (idle sw [] [])) (fun t => t.rsp == 0x00000#17)) = true := by decide

/-- V29, first step: chip-select falls and the first delay is loaded. -/
theorem test_acq_starts : (goesOn (exec .acq (idle sw [] [])) (fun t =>
    t.tr == [.cmd 0x00000#19, .csFall, .wait 2] && t.ph == .stop && !t.csN && t.dly == 2 && !t.rspValid)) = true := by decide

/-- V29, last step: the raw word is the response. -/
theorem test_acq_ends : (goesOn (step (during sw 0x00000#19 .opened 16 0 frame0320 [.sequencer] [])) (fun t =>
    t.rsp == 0x10320#17 && t.rspValid && t.csN && t.ph == .idle)) = true := by decide

/-- V33, first step. -/
theorem test_tempf_starts : (goesOn (exec .tempf (idle masked [] [])) (fun t =>
    t.tr == [.cmd 0x40000#19, .csFall, .wait 2] && t.ph == .stop && t.cmdr == 0x40000#19)) = true := by decide

/-- R162's example, last step in HW mode: the decode of `0x0320` is the response. -/
theorem test_tempf_ends : (goesOn (step (during hw 0x40000#19 .released 16 0 frame0320 [.sequencer] [])) (fun t =>
    t.rsp == 0x10064#17 && t.rspValid && t.csN && t.ph == .idle)) = true := by decide

/-! ## Single micro-steps, ticks, refusals and resets -/

/-- V29: sixteen bits taken means `CLOSE` is enabled, not a seventeenth pulse (V31). -/
theorem test_sixteen_not_seventeen :
    enabledMicro (during sw 0x00000#19 .opened 16 0 frame0320 [] []) = some .close := by decide

/-- R120: the bit sampled at `N` = 15 enters at bit 0 while the clock is high. -/
theorem test_sample : (goesOn (step (during sw 0x00000#19 .hi 15 0 [true] [.sequencer] [true]))
    (fun t => t.sr == 0x0003#16 && t.sck && t.ph == .smp && t.line == [])) = true := by decide

/-- R121: the clock falls and the bit is counted. -/
theorem test_clock_falls : (goesOn (step (during sw 0x00000#19 .smp 15 0 frame0320 [.sequencer] []))
    (fun t => !t.sck && t.n == 16 && t.ph == .opened)) = true := by decide

/-- V30: the block transfer delivers the same word in one step. -/
theorem test_transfer : (goesOn (step (during hw 0x00000#19 .owned 0 0 [] [.sequencer] frame0320))
    (fun t => t.sr == 0x0320#16 && t.n == 16 && t.ph == .xferd && t.own)) = true := by decide

/-- V33: the mask window opens after the second falling edge. -/
theorem test_mask_window : (goesOn (step (during masked 0x40000#19 .conv 0 0 [] [.sequencer] []))
    (fun t => t.im && t.tr.drop 5 == [.csFall, .imSet])) = true := by decide

/-- V35: a tick that is not waited for changes nothing. -/
theorem test_late_tick : (goesOn (step (during sw 0x00000#19 .conv 0 0 [] [.tick] [])) (fun t => t.dly == 0 && t.ph == .conv)) = true := by
  decide

/-- V36: with the bus taken the frame stays open and no event is emitted. -/
theorem test_bus_taken : goesOn (step { during hw 0x00000#19 .opened 0 0 [] [.sequencer] [] with busAvail := false })
    (fun t => t.ph == .opened && t.tr.length == 6 && !t.own) = true := by decide

/-- V38: a command while busy is refused, and a reserved one for the same reason. -/
theorem test_busy : (refusedAs (step (during sw 0x00000#19 .conv 0 3 [] [.command 0x30320#19] [])) .commandWhileBusy &&
    refusedAs (step (during sw 0x00000#19 .conv 0 3 [] [.command 0x50000#19] [])) .commandWhileBusy) = true := by decide

/-- V37: reserved words. -/
theorem test_reserved : (refusedAs (step (idle sw [.command 0x00001#19] [])) .reservedCommand &&
    refusedAs (step (idle sw [.command 0x50000#19] [])) .reservedCommand) = true := by decide

/-- V39: reset while the clock is high and the mask window open. -/
theorem test_reset_sw : goesOn (step { during masked 0x00000#19 .hi 3 0 [] [.reset true] [] with tr := [] }) (fun t =>
    t.tr == [.imClr, .sckFall, .csRise] && t.ph == .idle && !t.im && !t.sck && t.csN && !t.rspValid) = true := by decide

/-- V40: reset inside the bracket gives the bus back first. -/
theorem test_reset_hw : goesOn (step { during hw 0x00000#19 .owned 0 0 [] [.reset true] [] with tr := [] }) (fun t =>
    t.tr == [.busEnd, .csRise] && t.ph == .idle && !t.own && t.csN && t.per == none) = true := by decide

/-- V41: a command takes the last response's validity away. -/
theorem test_answer_withdrawn : goesOn (exec .acq { idle sw [] [] with rspValid := true, rsp := 0x10064#17 })
    (fun t => t.answer == none && t.rsp == 0x10064#17) = true := by decide

/-- R211: nothing is seen during reset. -/
theorem test_not_seen_in_reset : goesOn (exec .acq { idle sw [] [] with rst := true }) (fun t => t.ph == .idle && t.tr == []) = true := by
  decide

/-! ## The command notation (R98, R99) -/

theorem test_line_conn : parseLine ['c', 'o', 'n', 'n', ' ', ' ', '0', 'x', '0', '3', '2', '0', ' ', ';', ' ', 'n'] =
    some (some (.conn (.literal 0x0320#16))) := by decide
theorem test_line_binary : parseLine ['t', 'e', 'm', 'p', ' ', '0', 'b', '1', '_', '0', '0', '0'] =
    some (some (.temp (some (.literal 8#16)))) := by decide
theorem test_line_dollar : parseLine ['c', 'h', 'i', 'd', ' ', '$', '1', '2'] = some (some (.chid (.answerOf 12))) := by decide
theorem test_line_too_large : parseLine ['c', 'o', 'n', 'n', ' ', '6', '5', '5', '3', '6'] = none := by decide
theorem test_line_comment : parseLine [' ', ';', 'x'] = some none := by decide
theorem test_expand_read : expand [.temp none, .read, .acq] = [.tempf, .acq, .temp (some (.answerOf 1)), .acq] := by decide

/-! ## Witnesses: the premises of each statement, met -/

/-- A state inside an acquisition meets the invariant if its phase, count, delay and word do. -/
theorem during_inv {c : Cfg} {w : Cmd} {p : Phase} {n : BitVec 5} {dly : Nat} {d : List Bool} {turns : List Turn}
    {line : List Bool} (hp : phaseOfMode c.mode p = true) (hn : countOk c.mode n p = true) (hd : dly ≤ delayBound c p)
    (hw : w = encode .acq ∨ w = encode .tempf) : Inv (during c w p n dly d turns line) where
  pins := rfl
  phase := hp
  count := hn
  delay := hd
  command := fun _ => hw
  pending := fun _ => rfl
  response := fun h => absurd h (by simp [during, State.resetOf])
  session := rfl
  bus := fun _ => rfl
  resetState := fun h => absurd h (by simp [during, State.resetOf])

theorem witness_inv_stop : Inv (during sw 0x00000#19 .stop 0 2 [] [.tick] []) :=
  during_inv (by decide) (by decide) (by decide) (by decide)
theorem witness_inv_conv : Inv (during sw 0x00000#19 .conv 0 3 [] [.sequencer] []) :=
  during_inv (by decide) (by decide) (by decide) (by decide)
theorem witness_inv_open : Inv (during sw 0x00000#19 .opened 0 0 [] [.sequencer] []) :=
  during_inv (by decide) (by decide) (by decide) (by decide)
theorem witness_inv_last_bit : Inv (during masked 0x40000#19 .smp 15 0 frame0320 [.sequencer] []) :=
  during_inv (by decide) (by decide) (by decide) (by decide)
theorem witness_inv_close_sw : Inv (during sw 0x00000#19 .opened 16 0 frame0320 [.sequencer] []) :=
  during_inv (by decide) (by decide) (by decide) (by decide)
theorem witness_inv_owned : Inv (during hw 0x00000#19 .owned 0 0 [] [.sequencer] frame0320) :=
  during_inv (by decide) (by decide) (by decide) (by decide)
theorem witness_inv_close_hw : Inv (during hw 0x40000#19 .released 16 0 frame0320 [.sequencer] []) :=
  during_inv (by decide) (by decide) (by decide) (by decide)

/-- The bus taken while the frame is open. -/
theorem witness_inv_bus_taken :
    Inv { during hw 0x00000#19 .opened 0 0 [] [.sequencer] [] with busAvail := false } where
  pins := rfl
  phase := by decide
  count := by decide
  delay := by decide
  command := by decide
  pending := by decide
  response := fun h => absurd h (by decide)
  session := rfl
  bus := by decide
  resetState := by decide

/-- The block while RST = 1. -/
theorem witness_inv_reset (turns : List Turn) : Inv { idle sw turns [] with rst := true } where
  pins := rfl
  phase := rfl
  count := rfl
  delay := Nat.zero_le _
  command := fun h => absurd rfl h
  pending := fun h => absurd rfl h
  response := fun h => Bool.noConfusion h
  session := rfl
  bus := fun h => Bool.noConfusion h
  resetState := fun _ => ⟨rfl, rfl⟩

theorem witness_inFlight_stop : InFlight (during sw 0x00000#19 .stop 0 2 [] [.tick] []) :=
  fun _ => ⟨[], [], rfl, rfl, fun h => absurd h (by decide)⟩
theorem witness_inFlight_last_bit : InFlight (during masked 0x40000#19 .smp 15 0 frame0320 [.sequencer] []) :=
  fun _ => ⟨[], frame0320, rfl, rfl, fun _ => by decide⟩
theorem witness_inFlight_close_sw : InFlight (during sw 0x00000#19 .opened 16 0 frame0320 [.sequencer] []) :=
  fun _ => ⟨[], frame0320, rfl, rfl, fun _ => by decide⟩
theorem witness_inFlight_close_hw : InFlight (during hw 0x40000#19 .released 16 0 frame0320 [.sequencer] []) :=
  fun _ => ⟨[], frame0320, rfl, rfl, fun _ => by decide⟩

theorem witness_DecodeAndEncodeAreInverse : decode 0x10320#19 = .ok (.conn 0x0320#16) := by decide

theorem witness_ReservedWordsAreRefused : (idle sw [.command 0x7FFFF#19] []).rst = false ∧
    (idle sw [.command 0x7FFFF#19] []).ph = .idle ∧ decode 0x7FFFF#19 = .error .opcode ∧
    decode 0x50000#19 = .error .opcode ∧ decode 0x00001#19 = .error .acqOperand ∧
    decode 0x0FFFF#19 = .error .acqOperand ∧ decode 0x40001#19 = .error .tempfOperand ∧
    decode 0x4FFFF#19 = .error .tempfOperand := by decide

/-- Also `ChidAnswersIdentityOrNone`, `TempAnswersMagnitudeOrError` and `AcquiringCommandsStart`: an idle block and a
busy one. -/
theorem witness_ConnTestsTheFaultFlag : (idle sw [] []).rst = false ∧ (idle sw [] []).ph = .idle ∧
    (idle sw [] []).csN = true ∧ (during sw 0x00000#19 .stop 0 2 [] [] []).rst = false ∧
    (during sw 0x00000#19 .stop 0 2 [] [] []).ph ≠ .idle := by decide

theorem witness_ChidAnswersIdentityOrNone : (idle hw [] []).rst = false ∧ (idle hw [] []).ph = .idle ∧
    (during hw 0x00000#19 .owned 0 0 [] [] []).rst = false ∧ (during hw 0x00000#19 .owned 0 0 [] [] []).ph ≠ .idle := by
  decide

theorem witness_TempAnswersMagnitudeOrError : (idle masked [] []).rst = false ∧ (idle masked [] []).ph = .idle ∧
    (during masked 0x40000#19 .smp 15 0 [] [] []).rst = false ∧ (during masked 0x40000#19 .smp 15 0 [] [] []).ph ≠ .idle := by
  decide

theorem witness_AcquiringCommandsStart : (idle hw [] []).rst = false ∧ (idle hw [] []).ph = .idle ∧
    (idle hw [] []).csN = true := by decide

theorem witness_DecodeOperationsFrame : (∃ t, exec (.conn 4) (idle sw [] []) = .next t) ∧
    (∃ t, exec (.chid 2) (idle sw [] []) = .next t) ∧ ∃ t, exec (.temp 0x0320) (idle sw [] []) = .next t :=
  ⟨⟨_, rfl⟩, ⟨_, rfl⟩, ⟨_, rfl⟩⟩

theorem witness_AcquiringOperationsFrame : (∃ t, exec .acq (idle sw [] []) = .next t) ∧
    ∃ t, exec .tempf (idle hw [] []) = .next t := ⟨⟨_, rfl⟩, ⟨_, rfl⟩⟩

theorem witness_DecodeOperationsArePure : (idle sw [] []).rst = false ∧ (idle sw [] []).ph = .idle ∧
    { idle hw [] [] with sr := 0xFFFF, rsp := 1 }.rst = false ∧ { idle hw [] [] with sr := 0xFFFF, rsp := 1 }.ph = .idle ∧
    ((∃ w, Instr.temp 4 = .chid w) →
      { idle hw [] [] with sr := 0xFFFF, rsp := 1 }.cfg.chipId = (idle sw [] []).cfg.chipId) :=
  ⟨rfl, rfl, rfl, rfl, fun _ => rfl⟩

theorem witness_StepRunsTheDecodedCommand : (idle sw [.command 0x30320#19, .tick] []).turns = .command 0x30320#19 :: [.tick] ∧
    decode 0x30320#19 = .ok (.temp 0x0320#16) := by decide

theorem witness_CommandWhileBusyIsRefused :
    (during sw 0x00000#19 .conv 0 3 [] [.command 0x50000#19] []).turns = .command 0x50000#19 :: [] ∧
    (during sw 0x00000#19 .conv 0 3 [] [.command 0x50000#19] []).rst = false ∧
    (during sw 0x00000#19 .conv 0 3 [] [.command 0x50000#19] []).busy = true := by decide

/-- All three clauses: `STOP`, `CONV` with the mask window used, `CONV` in HW mode and with the window not used. -/
theorem witness_TriggerAndOpenFrameSteps :
    (let s := during sw 0x00000#19 .stop 0 0 [] [.sequencer] []; s.rst = false ∧ s.dly = 0 ∧ s.ph = .stop ∧ s.csN = false) ∧
    (let s := during masked 0x00000#19 .conv 0 0 [] [.sequencer] [];
      s.rst = false ∧ s.dly = 0 ∧ s.ph = .conv ∧ s.csN = true ∧ s.cfg.mode = .sw ∧ s.cfg.irqMaskEn = true) ∧
    (let s := during sw 0x00000#19 .conv 0 0 [] [.sequencer] [];
      s.rst = false ∧ s.dly = 0 ∧ s.ph = .conv ∧ s.csN = true ∧ (s.cfg.mode = .hw ∨ s.cfg.irqMaskEn = false)) ∧
    (let s := during hw 0x00000#19 .conv 0 0 [] [.sequencer] [];
      s.rst = false ∧ s.dly = 0 ∧ s.ph = .conv ∧ s.csN = true ∧ s.cfg.mode = .hw) := by decide

/-- All four clauses, the first at both ends of `N`. -/
theorem witness_SoftwareShiftSteps :
    (let s := during sw 0x00000#19 .opened 0 0 [] [.sequencer] []; s.rst = false ∧ s.cfg.mode = .sw ∧ s.ph = .opened ∧ s.n < 16) ∧
    (let s := during sw 0x00000#19 .opened 15 0 [] [.sequencer] []; s.rst = false ∧ s.cfg.mode = .sw ∧ s.ph = .opened ∧ s.n < 16) ∧
    (let s := during sw 0x00000#19 .hi 0 0 [] [.sequencer] [true]; s.rst = false ∧ s.ph = .hi ∧ s.line = true :: []) ∧
    (let s := during sw 0x00000#19 .hi 15 0 [] [.sequencer] []; s.rst = false ∧ s.ph = .hi ∧ s.line = []) ∧
    (let s := during sw 0x00000#19 .smp 15 0 [] [.sequencer] []; s.rst = false ∧ s.ph = .smp) := by decide

theorem witness_PeripheralShiftSteps :
    (let s := during hw 0x00000#19 .opened 0 0 [] [.sequencer] [];
      s.rst = false ∧ s.cfg.mode = .hw ∧ s.ph = .opened ∧ s.busAvail = true) ∧
    (let s := { during hw 0x00000#19 .opened 0 0 [] [.sequencer] [] with busAvail := false };
      s.rst = false ∧ s.cfg.mode = .hw ∧ s.ph = .opened ∧ s.busAvail = false) ∧
    (let s := during hw 0x00000#19 .owned 0 0 [] [.sequencer] frame0320;
      s.rst = false ∧ s.ph = .owned ∧ s.line = frame0320 ++ [] ∧ frame0320.length = 16) ∧
    (let s := during hw 0x00000#19 .owned 0 0 [] [.sequencer] [true];
      s.rst = false ∧ s.ph = .owned ∧ s.line.length < 16) ∧
    (let s := during hw 0x00000#19 .xferd 16 0 [] [.sequencer] []; s.rst = false ∧ s.ph = .xferd) := by decide

theorem witness_CloseStepGivesTheResponse :
    (let s := during sw 0x00000#19 .opened 16 0 frame0320 [.sequencer] [];
      s.rst = false ∧ s.csN = false ∧ s.cfg.mode = .sw ∧ s.ph = .opened ∧ s.n = 16 ∧ s.cmdr.extractLsb' 16 3 = 0b000#3) ∧
    (let s := during hw 0x40000#19 .released 16 0 frame0320 [.sequencer] [];
      s.rst = false ∧ s.csN = false ∧ s.cfg.mode = .hw ∧ s.ph = .released ∧ s.cmdr.extractLsb' 16 3 = 0b100#3) := by
  decide

/-- Both holds, and a busy block with none. -/
theorem witness_HoldsAreExactlyTheTwo :
    (Inv (during sw 0x00000#19 .conv 0 3 [] [.sequencer] []) ∧
      holdOf (during sw 0x00000#19 .conv 0 3 [] [.sequencer] []) = some .waitTick) ∧
    (Inv { during hw 0x00000#19 .opened 0 0 [] [.sequencer] [] with busAvail := false } ∧
      holdOf { during hw 0x00000#19 .opened 0 0 [] [.sequencer] [] with busAvail := false } = some .waitBus) ∧
    (Inv (during sw 0x00000#19 .opened 0 0 [] [.sequencer] []) ∧
      (during sw 0x00000#19 .opened 0 0 [] [.sequencer] []).busy = true ∧
      (during sw 0x00000#19 .opened 0 0 [] [.sequencer] []).rst = false ∧
      holdOf (during sw 0x00000#19 .opened 0 0 [] [.sequencer] []) = none) :=
  ⟨⟨witness_inv_conv, by decide⟩, ⟨witness_inv_bus_taken, by decide⟩, ⟨witness_inv_open, by decide⟩⟩

theorem witness_DelayIsALowerBound :
    let us : List Turn := [.sequencer, .tick, .interrupt, .bus false, .tick, .sequencer]
    let s := during sw 0x00000#19 .conv 0 3 [] (us ++ [.tick]) []
    s.turns = us ++ [.tick] ∧ s.rst = false ∧ s.own = false ∧ s.ph = .conv ∧ us.count .tick < s.dly := by decide

theorem witness_EnvironmentTurnsAreSilent :
    (∃ t, step (during sw 0x00000#19 .stop 0 2 [] [.tick] []) = .next t) ∧
    (∃ t, step (during sw 0x00000#19 .hi 3 0 [] [.interrupt] []) = .next t) ∧
    ∃ t, step (during hw 0x00000#19 .opened 0 0 [] [.bus false] []) = .next t := ⟨⟨_, rfl⟩, ⟨_, rfl⟩, ⟨_, rfl⟩⟩

theorem witness_BusOwnersHonourTheBracket :
    (during hw 0x00000#19 .owned 0 0 [] [.bus false] []).own = true ∧
    (during hw 0x00000#19 .opened 0 0 [] [.bus false] []).own = false := by decide

theorem witness_FirstResetState : sw.legal = true ∧ masked.legal = true ∧ hw.legal = true := by decide

theorem witness_ResetReleasesThePins :
    (during masked 0x00000#19 .hi 3 0 [] [.reset true, .tick] []).turns = .reset true :: [.tick] ∧
    (during hw 0x00000#19 .owned 0 0 [] [.reset true] []).own = true := by decide

theorem witness_ResetLevelHoldsTheBlock (c : Cmd) (i : Instr) :
    Inv { idle sw [.command c] [] with rst := true } ∧ Inv { idle sw [.tick] [] with rst := true } ∧
    Inv { idle sw [.reset false, .command (encode i)] [] with rst := true } :=
  ⟨witness_inv_reset _, witness_inv_reset _, witness_inv_reset _⟩

/-- Also `TraceOnlyGrows`: a step that goes on. -/
theorem witness_ConfigurationIsNeverWritten : ∃ t, step (during sw 0x00000#19 .stop 0 0 [] [.sequencer] []) = .next t :=
  ⟨_, rfl⟩

theorem witness_TraceOnlyGrows : ∃ t, step (during hw 0x00000#19 .owned 0 0 [] [.reset true] []) = .next t := ⟨_, rfl⟩

theorem witness_StepKeepsTheInvariant :
    Inv (during masked 0x40000#19 .smp 15 0 frame0320 [.sequencer] []) ∧
    ∃ t, step (during masked 0x40000#19 .smp 15 0 frame0320 [.sequencer] []) = .next t := ⟨witness_inv_last_bit, ⟨_, rfl⟩⟩

theorem witness_StepKeepsTheAcquisitionTrace :
    Inv (during masked 0x40000#19 .smp 15 0 frame0320 [.sequencer] []) ∧
    InFlight (during masked 0x40000#19 .smp 15 0 frame0320 [.sequencer] []) ∧
    ∃ t, step (during masked 0x40000#19 .smp 15 0 frame0320 [.sequencer] []) = .next t :=
  ⟨witness_inv_last_bit, witness_inFlight_last_bit, ⟨_, rfl⟩⟩

theorem witness_NoStepFaultsUnderTheInvariant : Inv (during hw 0x00000#19 .owned 0 0 [] [.sequencer] frame0320) :=
  witness_inv_owned

theorem witness_CloseCompletesTheTrace :
    (Inv (during sw 0x00000#19 .opened 16 0 frame0320 [.sequencer] []) ∧
      InFlight (during sw 0x00000#19 .opened 16 0 frame0320 [.sequencer] []) ∧
      enabledMicro (during sw 0x00000#19 .opened 16 0 frame0320 [.sequencer] []) = some .close) ∧
    (Inv (during hw 0x40000#19 .released 16 0 frame0320 [.sequencer] []) ∧
      InFlight (during hw 0x40000#19 .released 16 0 frame0320 [.sequencer] []) ∧
      enabledMicro (during hw 0x40000#19 .released 16 0 frame0320 [.sequencer] []) = some .close) :=
  ⟨⟨witness_inv_close_sw, witness_inFlight_close_sw, by decide⟩, ⟨witness_inv_close_hw, witness_inFlight_close_hw, by decide⟩⟩

/-- Each pin changes in some step. -/
theorem witness_PinsChangeOnlyWhereTheRulesSay :
    (goesOn (step (idle sw [.command 0x00000#19] [])) (fun t => !t.csN) &&
    goesOn (step (during sw 0x00000#19 .opened 15 0 [] [.sequencer] [])) (fun t => t.sck)) = true ∧
    Inv (during sw 0x00000#19 .opened 0 0 [] [.sequencer] []) := ⟨by decide, witness_inv_open⟩

/-- The response changes when a decode operation is accepted and when an acquisition closes. -/
theorem witness_ResponseChangesOnlyOnCompletion :
    (goesOn (step (idle sw [.command 0x30320#19] [])) (fun t => t.rsp != 0#17) &&
    goesOn (step (during sw 0x00000#19 .opened 16 0 frame0320 [.sequencer] [])) (fun t => t.rsp != 0#17)) = true := by
  decide

/-- A next state, a fault and a refusal. -/
theorem witness_TraceIsNeverRead :
    (∃ t, step (idle sw [.tick] []) = .next t) ∧
    step (during sw 0x00000#19 .opened 17 0 [] [.sequencer] []) = .fault .noEnabledMicroStep ∧
    step (idle sw [.command 0x50000#19] []) = .refused .reservedCommand := ⟨⟨_, rfl⟩, rfl, rfl⟩

/-- Two idle blocks with different leftovers, given the same command. -/
theorem witness_LeftoversNeverReachALaterCommand :
    (let s := idle sw [.command 0x00000#19, .tick, .tick, .sequencer] frame0320;
      s.rst = false ∧ s.ph = .idle ∧ s.turns = .command (encode .acq) :: [.tick, .tick, .sequencer]) ∧
    (goesOn (steps 4 (idle sw [.command 0x00000#19, .tick, .tick, .sequencer] frame0320)) (fun t => t.ph == .conv)) = true := by
  decide

theorem witness_ready (c : Cfg) (turns : List Turn) (line : List Bool) : Ready (idle c turns line) := ⟨rfl, rfl, rfl⟩

/-- In both modes; also `TempfIsAcqThenTemp`. -/
theorem witness_AcquisitionRunsToItsResponse (i : Instr) (c : Cfg) :
    let s := idle c (.command (encode i) :: (promptTurns c ++ [.tick])) (frame0320 ++ [true])
    Ready s ∧ s.busAvail = true ∧ s.turns = .command (encode i) :: (promptTurns s.cfg ++ [.tick]) ∧
    s.line = frame0320 ++ [true] ∧ frame0320.length = 16 := ⟨witness_ready _ _ _, rfl, rfl, rfl, rfl⟩

theorem witness_ModesAreEquivalent (i : Instr) :
    let s := idle sw (.command (encode i) :: (promptTurns sw ++ [])) (frame0320 ++ [])
    let s' := idle hw (.command (encode i) :: (promptTurns hw ++ [])) (frame0320 ++ [])
    Ready s ∧ Ready s' ∧ s.cfg.mode = .sw ∧ s'.cfg.mode = .hw ∧ s'.busAvail = true ∧ s'.cfg.tCslow = s.cfg.tCslow ∧
    s'.cfg.tConv = s.cfg.tConv := ⟨witness_ready _ _ _, witness_ready _ _ _, rfl, rfl, rfl, rfl, rfl⟩

theorem witness_TempfIsAcqThenTemp : Ready (idle sw [] frame0320) ∧ (idle sw [] frame0320).busAvail = true ∧
    (idle sw [] frame0320).line = frame0320 ++ [] ∧ frame0320.length = 16 := ⟨witness_ready _ _ _, rfl, rfl, rfl⟩

/-- An accepted acquisition; a tick that is waited for; an enabled micro-step. -/
theorem witness_EveryUsefulTurnIsProgress :
    (∃ t, exec .acq (idle sw [] []) = .next t) ∧
    (Inv (during sw 0x00000#19 .stop 0 2 [] [.tick] []) ∧
      holdOf (during sw 0x00000#19 .stop 0 2 [] [.tick] []) = some .waitTick ∧
      ∃ t, step (during sw 0x00000#19 .stop 0 2 [] [.tick] []) = .next t) ∧
    (Inv (during masked 0x40000#19 .smp 15 0 frame0320 [.sequencer] []) ∧
      (enabledMicro (during masked 0x40000#19 .smp 15 0 frame0320 [.sequencer] [])).isSome) :=
  ⟨⟨_, rfl⟩, ⟨witness_inv_stop, by decide, ⟨_, rfl⟩⟩, ⟨witness_inv_last_bit, by decide⟩⟩

/-- The bus comes free, then sequencer and ticks take turns for ever. -/
def fairTurns : Schedule := fun k => if k = 0 then .bus true else if k % 2 = 1 then .sequencer else .tick

/-- HW mode, the frame open and the bus taken. -/
def waiting : State := { during hw 0x00000#19 .opened 0 0 [] [] frame0320 with busAvail := false }

/-- The same block after its acquisition. -/
def answered : State :=
  { idle hw [] [] with
    sr := 0x0320, n := 16, rsp := 0x10320, rspValid := true
    tr := acquisitionTrace hw 0x00000#19 frame0320 0x10320 }

theorem fairTurns_ends (j : Nat) : runBy fairTurns waiting (8 + j) = .next answered := by
  induction j with
  | zero => rfl
  | succ j ih =>
    rw [← Nat.add_assoc]
    simp only [runBy, ih]
    have hne : 8 + j ≠ 0 := by omega
    simp only [fairTurns, if_neg hne]
    split <;> rfl

theorem fairTurns_bus (k : Nat) : fairTurns k ≠ .bus false := by
  unfold fairTurns
  split
  · decide
  · split <;> decide

theorem fairTurns_undisturbed : Undisturbed fairTurns := by
  intro k
  unfold fairTurns
  split
  · exact ⟨by simp, by simp⟩
  · split <;> exact ⟨by simp, by simp⟩

/-- All the premises at once, in HW mode with the bus taken at first. -/
theorem witness_EveryAcquisitionEnds : Inv waiting ∧ waiting.rst = false ∧ waiting.busy = true ∧
    Undisturbed fairTurns ∧ Ticks fairTurns ∧ WeaklyFair fairTurns waiting ∧ waiting.cfg.mode = .hw ∧
    BusFair fairTurns waiting ∧ BracketHonoured fairTurns waiting := by
  refine ⟨⟨rfl, rfl, rfl, Nat.zero_le _, fun _ => .inl rfl, fun _ => rfl, fun h => Bool.noConfusion h, rfl,
      fun h => Bool.noConfusion h, fun h => Bool.noConfusion h⟩, rfl, rfl, fairTurns_undisturbed, ?_, ?_, rfl, ?_, ?_⟩
  · intro k
    refine ⟨2 * k + 2, by omega, ?_⟩
    rw [fairTurns, if_neg (by omega), if_neg (by omega)]
  · intro k
    refine ⟨2 * k + 1, by omega, .inl ?_⟩
    rw [fairTurns, if_neg (by omega), if_pos (by omega)]
  · exact ⟨fun k => ⟨8 + k, answered, by omega, fairTurns_ends k, rfl⟩, fun k _ _ _ _ => fairTurns_bus k⟩
  · exact fun k _ _ _ => fairTurns_bus k

/-- Both holds, with a schedule that never lifts them. -/
theorem witness_NoTimeoutEndsAHold :
    Inv (during sw 0x00000#19 .conv 0 3 [] [.sequencer] []) ∧ waiting.busAvail = false ∧ waiting.ph = .opened ∧
    Undisturbed (fun _ => .sequencer) ∧ (∀ k : Nat, (fun _ => .sequencer : Schedule) k ≠ .tick) ∧
    ∀ k : Nat, (fun _ => .sequencer : Schedule) k ≠ .bus true :=
  ⟨witness_inv_conv, rfl, rfl, fun _ => ⟨by simp, by simp⟩, by simp, by simp⟩

/-- Also `SixteenShiftsSpellTheFrame`. -/
theorem witness_FrameArrivesMostSignificantFirst : frame0320.length = 16 ∧ frameWord frame0320 = 0x0320#16 := by decide

theorem witness_SixteenShiftsSpellTheFrame : (List.replicate 16 true).length = 16 ∧
    frameWord (List.replicate 16 true) = 0xFFFF#16 := by decide

/-- The fault flag alone, and the end of an acquisition that took it. -/
theorem witness_FaultFlagMeansError : (0x0004#16).getLsbD 2 = true ∧ (idle sw [] []).rst = false ∧
    (let s := { during sw 0x40000#19 .opened 16 0 [] [.sequencer, .sequencer] [] with sr := 0x0004 };
      s.rst = false ∧ enabledMicro s = some .close ∧ s.cmdr = encode .tempf ∧ s.sr = 0x0004#16) := by decide

theorem witness_IdentityBitMeansError : (0x0002#16).getLsbD 1 = true ∧ (idle sw [] []).rst = false ∧
    (let s := { during hw 0x40000#19 .released 16 0 [] [.sequencer] [] with sr := 0x0002 };
      s.rst = false ∧ enabledMicro s = some .close ∧ s.cmdr = encode .tempf ∧ s.sr = 0x0002#16) := by decide

theorem witness_OuterBitsAreIgnored (i : Nat) (h : 1 ≤ i) (h' : i ≤ 14) :
    (0x8001#16).getLsbD i = (0x0000#16).getLsbD i := by
  interval_cases i <;> rfl

theorem witness_ErrorIsRenderedApart : sw.legal = true ∧ rspOk (tempRsp 0x0004#16) = false ∧
    rspOk (tempRsp 0x0000#16) = true := by decide

/-- A magnitude of 100, opened just when the latency has passed; the largest, with the last bit set, opened later; and a
ready block whose `T_CONV` is the chip's latency. -/
theorem witness_HealthyConnectedChipIsNoError : ChipOK frame0320 false 3 3 100 ∧
    ChipOK ([false] ++ List.replicate 12 true ++ [false, false, true]) false 3 5 4095 ∧
    (let s := idle hw (.command (encode .tempf) :: (promptTurns hw ++ [])) (frame0320 ++ []);
      Ready s ∧ s.busAvail = true ∧ ChipOK frame0320 false 3 s.cfg.tConv 100) :=
  ⟨⟨rfl, rfl, rfl, rfl, by decide, rfl⟩, ⟨rfl, rfl, rfl, rfl, by decide, rfl⟩,
    ⟨rfl, rfl, rfl⟩, rfl, ⟨rfl, rfl, rfl, rfl, by decide, rfl⟩⟩

theorem witness_PseudoOperationsExpand : ([0x10320#17])[0]? = some 0x10320#17 ∧
    ([AsmLine.acq, .temp (some (.answerOf 0))])[0]? = some .acq ∧
    ([AsmLine.tempf, .temp (some (.answerOf 0))])[0]? ≠ some .acq := by decide

end Sys2Proof.Tests
end

section
/-!
PROOFS. The scope of the block (00_scope.md): which configurations are refused (R10, R37, R186), and that a step keeps
the configuration it starts with (R10, R37, R215).
-/

namespace Sys2Proof

/-- R10: the lines fit the mode exactly where both are present in software mode and neither in hardware mode. -/
theorem Cfg.linesFitMode_iff (c : Cfg) : c.linesFitMode = true ↔
    (c.mode = .sw → c.clkLine ≠ none ∧ c.dataLine ≠ none) ∧
    (c.mode = .hw → c.clkLine = none ∧ c.dataLine = none) := by
  unfold Cfg.linesFitMode
  cases c.mode <;> cases c.clkLine <;> cases c.dataLine <;> simp [modeOfLines]

theorem Cfg.holdLongEnough_iff (c : Cfg) : c.holdLongEnough = true ↔ c.tCslow ≠ 0 := by
  simp [Cfg.holdLongEnough, Nat.one_le_iff_ne_zero]

/-- Comparing numerators and denominators as 43 to 10 is comparing with 4.3 MHz. -/
theorem Cfg.rateWithinRating_iff (c : Cfg) : c.rateWithinRating = true ↔ c.fSckHw ≤ 43 / 10 := by
  have hnum : (43 / 10 : Rat).num = 43 := by norm_num
  have hden : (43 / 10 : Rat).den = 10 := by norm_num
  rw [Rat.le_iff, hnum, hden]
  simp [Cfg.rateWithinRating, mul_comm]

/-- A rational is `k` quarters exactly where four times its numerator is `k` times its denominator. -/
theorem eq_quarters_iff (q : Rat) (k : Nat) : q = (k : Rat) / 4 ↔ 4 * q.num = k * q.den := by
  have hden : (q.den : Rat) ≠ 0 := by exact_mod_cast q.den_nz
  nth_rewrite 1 [← Rat.num_div_den q]
  rw [div_eq_div_iff hden four_ne_zero, mul_comm]
  exact_mod_cast Iff.rfl

/-- R159: the valid results are the 4096 numbers 0, 0.25, ..., 1023.75. -/
theorem isValidResult_iff (q : Rat) :
    isValidResult q = true ↔ ∃ k : Nat, k ≤ 4095 ∧ q = (k : Rat) / 4 := by
  have hden : (0 : Int) < q.den := by exact_mod_cast q.den_pos
  simp only [isValidResult, Bool.and_eq_true, decide_eq_true_eq, eq_quarters_iff]
  constructor
  · rintro ⟨⟨hdvd, hnonneg⟩, hle⟩
    obtain ⟨z, hz⟩ := Int.dvd_of_emod_eq_zero hdvd
    have hz0 : 0 ≤ z := nonneg_of_mul_nonneg_right (by omega) hden
    lift z to Nat using hz0
    rw [mul_comm (q.den : Int)] at hz
    refine ⟨z, ?_, hz⟩
    rw [hz] at hle
    exact_mod_cast le_of_mul_le_mul_right hle hden
  · rintro ⟨k, hk, hq⟩
    have hle : (k : Int) * q.den ≤ 4095 * q.den := by gcongr; exact_mod_cast hk
    have hnonneg : (0 : Int) ≤ k * q.den := by positivity
    exact ⟨⟨by simp [hq], by omega⟩, by omega⟩

theorem Cfg.errorDistinct_iff (c : Cfg) :
    c.errorDistinct = true ↔ ¬ ∃ k : Nat, k ≤ 4095 ∧ c.errorValue = (k : Rat) / 4 := by
  rw [← isValidResult_iff]
  simp [Cfg.errorDistinct]

namespace Machine

/-- Construction is refused exactly where the configuration is not legal (R37, R186). -/
theorem construct_refused_iff (c : Cfg) : construct c = .refused .illegalConfig ↔ ¬ c.legal = true := by
  cases h : c.legal
  · simp [construct_illegal h]
  · simp [construct_legal h]

/-- Settles O25: each of the four checks of `Cfg.legal` fails exactly in its case of R10 and R37. -/
theorem illegalConfigurationsAreRefused : Obligations.IllegalConfigurationsAreRefused := by
  unfold Obligations.IllegalConfigurationsAreRefused
  intro c
  rw [construct_refused_iff]
  simp only [Cfg.legal, Bool.and_eq_true, Cfg.linesFitMode_iff, Cfg.holdLongEnough_iff, Cfg.rateWithinRating_iff,
    Cfg.errorDistinct_iff, not_and_or, Classical.not_imp, ne_eq, not_not, not_le, or_assoc]

/-! ### The configuration is kept -/

/-- No micro-step of the sequencer writes the configuration. -/
@[simp] theorem runMicro_cfg (m : Micro) (s : State) : (runMicro m s).cfg = s.cfg := by
  cases m with
  | trigger => rfl
  | openf => simp [runMicro, microOpenf_eq]
  | clkhi => rfl
  | sample =>
    obtain ⟨b, line, fresh, h⟩ := microSample_eq s
    simp [runMicro, h]
  | clklo => rfl
  | beginBus => rfl
  | xfer => simp [runMicro, microXfer_draws]
  | endBus => rfl
  | close => simp [runMicro, microClose_eq]

@[simp] theorem resetBlock_cfg (s : State) : (resetBlock s).cfg = s.cfg := by
  obtain ⟨sr, n, dly, cmdr, rsp, -, -, h⟩ := resetBlock_eq s
  rw [h]

@[simp] theorem nextTurn_cfg (s : State) : (nextTurn s).2.cfg = s.cfg := by
  obtain ⟨turns, fresh, h⟩ := nextTurn_frame s
  rw [h]

/-- No turn of any agent writes the configuration. -/
theorem act_cfg {u : Turn} {s t : State} (h : act u s = .next t) : t.cfg = s.cfg := by
  obtain rfl | ⟨c, i, -, -, -, -, -, rfl⟩ | ⟨c, i, r, -, -, -, -, -, rfl⟩ | ⟨m, -, -, -, rfl⟩ | ⟨-, -, -, rfl⟩ |
    ⟨a, -, -, rfl⟩ | ⟨-, rfl⟩ | ⟨-, rfl⟩ := act_next h
  · rfl
  · simp [microStart_eq]
  · simp
  · exact runMicro_cfg m s
  · rfl
  · rfl
  · exact resetBlock_cfg s
  · rfl

/-- Settles O26: neither the choice of the turn nor the turn taken writes the configuration. -/
theorem configurationIsNeverWritten : Obligations.ConfigurationIsNeverWritten := by
  unfold Obligations.ConfigurationIsNeverWritten
  intro s t h
  calc t.cfg = (nextTurn s).2.cfg := act_cfg h
    _ = s.cfg := nextTurn_cfg s

end Machine
end Sys2Proof
end

section
/-!
PROOFS. What the micro-steps and the commands leave as it was (R87, R111 to R131), stated once per function of the
model: the frame of a micro-step, the one draw of `SAMPLE`, and what each operation does when it is accepted.
-/

namespace Sys2Proof.Machine

theorem maskUsed_of_hw {c : Cfg} (h : c.mode = .hw) : maskUsed c = false := by simp [maskUsed, h]

/-- `SAMPLE`, saying which bit: the one `sampleData` gives. -/
theorem microSample_draws (s : State) : microSample s = { s with
    sr := shiftIn s.sr (sampleData s).1, ph := .smp, tr := s.tr ++ [.sample (sampleData s).1]
    line := s.line.drop 1, fresh := s.fresh + (1 - s.line.length) } := by
  simp only [microSample, sampleData_eq]
  rfl

/-- Which registers each micro-step leaves alone. -/
theorem runMicro_frame (m : Micro) (s : State) :
    ((runMicro m s).cmdr = s.cmdr ∧ (runMicro m s).rst = s.rst ∧ (runMicro m s).busAvail = s.busAvail) ∧
    (m ≠ .close → (runMicro m s).rsp = s.rsp ∧ (runMicro m s).rspValid = s.rspValid) ∧
    (m ≠ .trigger → m ≠ .openf → m ≠ .close → (runMicro m s).csN = s.csN) ∧
    (m ≠ .clkhi → m ≠ .clklo → (runMicro m s).sck = s.sck) ∧
    (m ≠ .beginBus → m ≠ .endBus → (runMicro m s).own = s.own ∧ (runMicro m s).per = s.per) := by
  cases m with
  | trigger => simp [runMicro, microTrigger_eq]
  | openf => simp [runMicro, microOpenf_eq]
  | clkhi => simp [runMicro, microClkhi_eq]
  | sample => simp [runMicro, microSample_draws]
  | clklo => simp [runMicro, microClklo_eq]
  | beginBus => simp [runMicro, microBegin_eq]
  | xfer => simp [runMicro, microXfer_draws]
  | endBus => simp [runMicro, microEnd_eq]
  | close => simp [runMicro, microClose_eq]

/-- An idle block has no micro-step to take. -/
theorem enabledMicro_busy {s : State} {m : Micro} (h : enabledMicro s = some m) : s.ph ≠ .idle := by
  intro hp
  simp [enabledMicro, hp] at h

/-- What an operation does once its word is latched (R87): it starts the sequencer, or gives its response. -/
def afterLatch (c : Cfg) : Instr → State → State
  | .acq => microStart
  | .conn w => State.respond (connRsp w)
  | .chid w => State.respond (chidRsp c w)
  | .temp w => State.respond (tempRsp w)
  | .tempf => microStart

/-- Every operation is the acceptance of its own word. -/
theorem exec_eq_accept (i : Instr) (s : State) : exec i s = accept (encode i) (afterLatch s.cfg i) s := by
  cases i <;> rfl

/-- A presented word that decodes is the operation it stands for (R87). -/
theorem hostTurn_of_decode {c : Cmd} {i : Instr} (h : decode c = .ok i) (s : State) : hostTurn c s = exec i s := by
  simp [hostTurn, h]

theorem decode_encode (i : Instr) : decode (encode i) = .ok i := by
  cases i <;>
    simp [decode, encode, opField_packCommand, immField_packCommand, opAcq, opConn, opChid, opTemp, opTempf]

/-- Settles O12: the first turn listed is the host's, and a word that decodes is its operation. -/
theorem stepRunsTheDecodedCommand : Obligations.StepRunsTheDecodedCommand := by
  unfold Obligations.StepRunsTheDecodedCommand
  intro s c rest i hturns hdec
  rw [step_listed hturns]
  exact hostTurn_of_decode hdec _

/-- Settles O9: such an operation is not seen, or is refused, or only latches its word and gives its response. -/
theorem decodeOperationsFrame : Obligations.DecodeOperationsFrame := by
  unfold Obligations.DecodeOperationsFrame
  intro s t i hi h
  obtain ⟨hk, -⟩ | ⟨r, -, he⟩ := exec_eq i s
  · obtain ⟨w, rfl⟩ | ⟨w, rfl⟩ | ⟨w, rfl⟩ := hi <;> simp at hk
  · rw [he] at h
    obtain ⟨-, ha⟩ | ⟨-, -, ha⟩ | ⟨-, -, ha⟩ := accept_cases (encode i) (State.respond r) s <;> rw [ha] at h
    · cases h
      exact ⟨rfl, rfl, rfl, rfl, rfl, rfl, rfl, rfl, rfl, rfl, rfl, rfl, [], by simp⟩
    · cases h
    · cases h
      exact ⟨rfl, rfl, rfl, rfl, rfl, rfl, rfl, rfl, rfl, rfl, rfl, rfl, [.cmd (encode i), .rsp r], by simp⟩

/-- Settles O10: such an operation is not seen, or is refused, or latches its word and takes `START`. -/
theorem acquiringOperationsFrame : Obligations.AcquiringOperationsFrame := by
  unfold Obligations.AcquiringOperationsFrame
  intro s t i hi h
  have he : exec i s = accept (encode i) microStart s := by obtain rfl | rfl := hi <;> rfl
  rw [he] at h
  obtain ⟨-, ha⟩ | ⟨-, -, ha⟩ | ⟨-, -, ha⟩ := accept_cases (encode i) microStart s <;> rw [ha] at h
  · cases h
    exact ⟨rfl, rfl, rfl, rfl, rfl, rfl, rfl, rfl, rfl, rfl, rfl, rfl, rfl, [], by simp⟩
  · cases h
  · cases h
    exact ⟨rfl, rfl, rfl, rfl, rfl, rfl, rfl, rfl, rfl, rfl, rfl, rfl, rfl,
      .cmd (encode i) :: csEdge s.csN false ++ [.wait s.cfg.tCslow], by simp [microStart_eq]⟩

end Sys2Proof.Machine
end

section
/-!
PROOFS. The invariant of a run (R28, R29, R33, R36, R41, R69, R91, R127, R195, R211): it holds right after construction,
and every step keeps it.
-/

namespace Sys2Proof.Machine

/-! ### What is left to show of it, idle and busy -/

theorem State.pins_eq_iff (s : State) (p : Pins) :
    s.pins = p ↔ s.csN = p.csN ∧ s.sck = p.sck ∧ s.own = p.own ∧ s.im = p.im := by
  cases p
  simp [State.pins]

/-- The invariant reads neither the turns listed nor the counter of free values. -/
theorem Inv.with_turns {s : State} (h : Inv s) (turns : List Turn) (fresh : Nat) :
    Inv { s with turns := turns, fresh := fresh } :=
  ⟨h.pins, h.phase, h.count, h.delay, h.command, h.pending, h.response, h.session, h.bus, h.resetState⟩

/-- An idle block (R41) has to show the ranges, that no session is open, and the form of a response. -/
theorem Inv.of_idle {s : State} (hph : s.ph = .idle) (hpins : s.pins = pinsOf s.cfg .idle) (hn : s.n.toNat ≤ 16)
    (hdly : s.dly ≤ max s.cfg.tCslow s.cfg.tConv) (hper : s.per = none)
    (hrsp : s.rspValid = true → s.rst = false ∧ (rspOk s.rsp = false → rspVal s.rsp = 0) ∧
      ∃ before, s.tr = before ++ [.rsp s.rsp]) : Inv s := by
  have hown : s.own = false := congrArg Pins.own hpins
  refine ⟨by rw [hph, hpins], by rw [hph]; rfl, by simpa [hph, countOk, BitVec.le_def] using hn,
    by simpa [hph, delayBound] using hdly, fun hb => absurd hph hb, fun hb => absurd hph hb, fun hv => (hrsp hv).2,
    by simp [hper, hown], by simp [hown], fun hrst => ⟨hph, ?_⟩⟩
  by_contra hv
  simp [hrst] at hrsp
  exact hv hrsp

/-- What the tables say of the phase a block is in: its pins, whether the mode has it, and the ranges of `N` and `DLY`
(R28, R29, R195). -/
def FitsPhase (s : State) : Prop :=
  s.pins = pinsOf s.cfg s.ph ∧ phaseOfMode s.cfg.mode s.ph = true ∧ countOk s.cfg.mode s.n s.ph = true ∧
  s.dly ≤ delayBound s.cfg s.ph

/-- A session is open exactly while the bus is owned, and meanwhile nobody else owns it (R69, R127). -/
def FitsBus (s : State) : Prop :=
  s.per = (if s.own then some (perSettings s.cfg) else none) ∧ (s.own = true → s.busAvail = true)

theorem Inv.fitsPhase {s : State} (h : Inv s) : FitsPhase s := ⟨h.pins, h.phase, h.count, h.delay⟩

theorem Inv.fitsBus {s : State} (h : Inv s) : FitsBus s := ⟨h.session, h.bus⟩

/-- An acquisition in progress has to show what its phase says, and the bus. -/
theorem Inv.of_busy {s : State} (hcmd : s.cmdr = encode .acq ∨ s.cmdr = encode .tempf) (hrst : s.rst = false)
    (hvalid : s.rspValid = false) (hphase : FitsPhase s) (hbus : FitsBus s) : Inv s := by
  obtain ⟨hpins, hmode, hn, hdly⟩ := hphase
  exact ⟨hpins, hmode, hn, hdly, fun _ => hcmd, fun _ => hvalid, fun hv => by simp [hvalid] at hv, hbus.1, hbus.2,
    fun hr => by simp [hrst] at hr⟩

/-- In every phase `N` is at most 16 (R29). -/
theorem countOk_le {m : Mode} {n : BitVec 5} {p : Phase} (h : countOk m n p = true) : n.toNat ≤ 16 := by
  cases p <;> grind [countOk, BitVec.le_def, BitVec.lt_def]

/-- In every phase `DLY` is at most the larger of the two delays (R195). -/
theorem delayBound_le (c : Cfg) (p : Phase) : delayBound c p ≤ max c.tCslow c.tConv := by
  cases p <;> simp [delayBound]

theorem Inv.count_le {s : State} (h : Inv s) : s.n.toNat ≤ 16 := countOk_le h.count

theorem Inv.delay_le {s : State} (h : Inv s) : s.dly ≤ max s.cfg.tCslow s.cfg.tConv :=
  h.delay.trans (delayBound_le _ _)

/-- The phase table, read in a phase that is known (R28). -/
theorem Inv.pins_at {s : State} (h : Inv s) {p : Phase} (hp : s.ph = p) :
    s.csN = (pinsOf s.cfg p).csN ∧ s.sck = (pinsOf s.cfg p).sck ∧ s.own = (pinsOf s.cfg p).own ∧
      s.im = (pinsOf s.cfg p).im := by
  rw [← State.pins_eq_iff, ← hp]
  exact h.pins

/-! ### The micro-steps -/

/-- A micro-step enters its phase with the pins, the count and the delay that phase has (R113, R116, R119 to R121, R126,
R128, R130). -/
theorem runMicro_fitsPhase {s : State} {m : Micro} (h : Inv s) (he : enabledMicro s = some m) (hm : m ≠ .close) :
    FitsPhase (runMicro m s) := by
  obtain ⟨hpins, hphase, hcount, -⟩ := h.fitsPhase
  have hdelay := h.delay_le
  rw [State.pins_eq_iff] at hpins
  unfold FitsPhase
  rw [State.pins_eq_iff]
  obtain ⟨rfl, hp, -⟩ | ⟨rfl, hp, -⟩ | ⟨rfl, hp, hmode, hlt⟩ | ⟨rfl, hp⟩ | ⟨rfl, hp⟩ | ⟨rfl, hp, hmode, -⟩ | ⟨rfl, hp⟩ |
    ⟨rfl, hp⟩ | ⟨rfl, -⟩ := enabledMicro_cases he
  · simp_all [runMicro, microTrigger_eq, pinsOf, phaseOfMode, countOk, delayBound]
  · simp_all [runMicro, microOpenf_eq, pinsOf, phaseOfMode, countOk, delayBound]
  · simp_all [runMicro, microClkhi_eq, pinsOf, phaseOfMode, countOk, delayBound]
  · simp_all [runMicro, microSample_draws, pinsOf, phaseOfMode, countOk, delayBound]
  · have hlt : s.n < 16 := by simpa [hp, countOk] using hcount
    have hle : s.n + 1 ≤ 16 := by bv_omega
    simp_all [runMicro, microClklo_eq, pinsOf, phaseOfMode, countOk, delayBound]
  · simp_all [runMicro, microBegin_eq, pinsOf, phaseOfMode, countOk, delayBound, maskUsed_of_hw]
  · simp_all [runMicro, microXfer_draws, pinsOf, phaseOfMode, countOk, delayBound]
  · simp_all [runMicro, microEnd_eq, pinsOf, phaseOfMode, countOk, delayBound]
  · exact absurd rfl hm

/-- `BEGIN` opens the session where the bus is available, `END` closes it, and no other micro-step touches the bus (R126,
R130). -/
theorem runMicro_fitsBus {s : State} {m : Micro} (h : Inv s) (he : enabledMicro s = some m) :
    FitsBus (runMicro m s) := by
  obtain ⟨⟨-, -, havail⟩, -, -, -, hsame⟩ := runMicro_frame m s
  by_cases hb : m = .beginBus
  · subst hb
    obtain ⟨-, -, havail⟩ : s.ph = .opened ∧ s.cfg.mode = .hw ∧ s.busAvail = true := by
      simpa using enabledMicro_cases he
    exact ⟨rfl, fun _ => havail⟩
  by_cases hend : m = .endBus
  · subst hend
    exact ⟨rfl, fun ho => by cases ho⟩
  obtain ⟨hown, hper⟩ := hsame hb hend
  unfold FitsBus
  rw [hown, hper, havail, runMicro_cfg]
  exact h.fitsBus

/-- An ERROR of the decoder has `VAL` = 0 (R91, R156). -/
theorem tempRsp_form (w : Word) (hok : rspOk (tempRsp w) = false) : rspVal (tempRsp w) = 0 := by
  unfold tempRsp at hok ⊢
  split at hok
  · simp_all
  · split at hok <;> simp_all

/-- `CLOSE` of an `ACQ` answers the raw word (R131). -/
theorem closeRsp_acq {s : State} (h : s.cmdr = encode .acq) : closeRsp s = mkRsp true s.sr := by
  simp [closeRsp, h, encode, opField_packCommand]

/-- `CLOSE` of a `TEMPF` answers its decode (R131). -/
theorem closeRsp_tempf {s : State} (h : s.cmdr = encode .tempf) : closeRsp s = tempRsp s.sr := by
  simp [closeRsp, h, encode, opField_packCommand, opAcq, opTempf]

/-- What `CLOSE` answers has `VAL` = 0 where `OK` = 0, for the two operations that have a `CLOSE` (R91, R131). -/
theorem closeRsp_form {s : State} (hcmd : s.cmdr = encode .acq ∨ s.cmdr = encode .tempf)
    (hok : rspOk (closeRsp s) = false) : rspVal (closeRsp s) = 0 := by
  obtain h | h := hcmd
  · simp [closeRsp_acq h] at hok
  · rw [closeRsp_tempf h] at hok ⊢
    exact tempRsp_form s.sr hok

/-- `CLOSE` leaves the block idle with a response (R131). -/
theorem Inv.microClose {s : State} (h : Inv s) (hr : s.rst = false) (he : enabledMicro s = some .close) :
    Inv (microClose s) := by
  have hb := enabledMicro_busy he
  have hclosing : s.sck = false ∧ s.own = false := by
    obtain ⟨-, hp, -⟩ | ⟨-, hp⟩ : s.cfg.mode = .sw ∧ s.ph = .opened ∧ s.n = 16 ∨ s.cfg.mode = .hw ∧ s.ph = .released :=
      by simpa using enabledMicro_cases he
    all_goals
      obtain ⟨-, hsck, hown, -⟩ := h.pins_at hp
      exact ⟨hsck, hown⟩
  obtain ⟨hsck, hown⟩ := hclosing
  rw [microClose_eq]
  refine .of_idle rfl ?_ h.count_le h.delay_le ?_ ?_
  · simp [State.pins, pinsOf, hsck, hown]
  · simp [h.session, hown]
  · exact fun _ => ⟨hr, closeRsp_form (h.command hb), _, rfl⟩

theorem Inv.runMicro {s : State} {m : Micro} (h : Inv s) (hr : s.rst = false) (he : enabledMicro s = some m) :
    Inv (runMicro m s) := by
  by_cases hm : m = .close
  · subst hm
    exact h.microClose hr he
  have hb := enabledMicro_busy he
  obtain ⟨⟨hcmd, hrst, -⟩, hkeep, -⟩ := runMicro_frame m s
  obtain ⟨-, hvalid⟩ := hkeep hm
  exact .of_busy (hcmd ▸ h.command hb) (hrst.trans hr) (hvalid.trans (h.pending hb))
    (runMicro_fitsPhase h he hm) (runMicro_fitsBus h he)

/-! ### The other turns -/

/-- Accepting `ACQ` or `TEMPF` begins an acquisition (R87, R112). -/
theorem Inv.start {s : State} (h : Inv s) (hr : s.rst = false) (hp : s.ph = .idle) {i : Instr}
    (hi : i = .acq ∨ i = .tempf) : Inv (microStart (s.latchCommand (encode i))) := by
  obtain ⟨-, hsck, hown, him⟩ := h.pins_at hp
  have hle : s.n ≤ 16 := h.count_le
  refine .of_busy ?_ hr rfl ⟨?_, rfl, ?_, le_rfl⟩ h.fitsBus
  · exact hi.imp (congrArg encode) (congrArg encode)
  · simp [microStart_eq, State.pins, pinsOf, hsck, hown, him]
  · simpa [microStart_eq, countOk] using hle

/-- Accepting `CONN`, `CHID` or `TEMP` gives the response in the same step (R87). -/
theorem Inv.answer {s : State} (h : Inv s) (hr : s.rst = false) (hp : s.ph = .idle) {c : Cmd} {r : Rsp}
    (hform : rspOk r = false → rspVal r = 0) : Inv ((s.latchCommand c).respond r) := by
  obtain ⟨-, -, hown, -⟩ := h.pins_at hp
  have hper : s.per = none := by simp [h.session, hown, pinsOf]
  have hpins : s.pins = pinsOf s.cfg .idle := hp ▸ h.pins
  exact .of_idle hp hpins h.count_le h.delay_le hper fun _ => ⟨hr, hform, _, rfl⟩

/-- A tick that is waited for takes one off the delay (R196). -/
theorem Inv.tick {s : State} (h : Inv s) : Inv { s with dly := s.dly - 1 } :=
  ⟨h.pins, h.phase, h.count, (Nat.sub_le _ _).trans h.delay, h.command, h.pending, h.response, h.session, h.bus,
    h.resetState⟩

/-- Another owner may move `bus_avail`, if it honours the bracket (R69, U9). -/
theorem Inv.bus_turn {s : State} (h : Inv s) {avail : Bool} (hown : s.own = true → avail = true) :
    Inv { s with busAvail := avail } :=
  ⟨h.pins, h.phase, h.count, h.delay, h.command, h.pending, h.response, h.session, hown, h.resetState⟩

/-- A reset leaves the idle pins and no response, and the unspecified registers in their ranges (R42, R212). -/
theorem Inv.reset {s : State} (h : Inv s) : Inv { resetBlock s with rst := true } := by
  obtain ⟨sr, n, dly, cmdr, rsp, hn, hdly, heq⟩ := resetBlock_eq s
  rw [heq]
  refine .of_idle rfl rfl hn hdly ?_ (fun hv => by cases hv)
  cases ho : s.own <;> simp [h.session, ho]

/-- The level RST returns to 0 (R211). -/
theorem Inv.leave_reset {s : State} (h : Inv s) : Inv { s with rst := false } :=
  ⟨h.pins, h.phase, h.count, h.delay, h.command, h.pending, h.response, h.session, h.bus, fun hr => by cases hr⟩

/-- The turn of any agent keeps the invariant. -/
theorem Inv.act {u : Turn} {s t : State} (h : Inv s) (ha : act u s = .next t) : Inv t := by
  obtain rfl | ⟨c, i, -, hr, hp, -, hi, rfl⟩ | ⟨c, i, r, -, hr, hp, -, hform, rfl⟩ | ⟨m, -, hr, he, rfl⟩ |
    ⟨-, -, -, rfl⟩ | ⟨a, -, hown, rfl⟩ | ⟨-, rfl⟩ | ⟨-, rfl⟩ := act_next ha
  · exact h
  · exact h.start hr hp hi
  · exact h.answer hr hp hform
  · exact h.runMicro hr he
  · exact h.tick
  · exact h.bus_turn hown
  · exact h.reset
  · exact h.leave_reset

/-- Settles O28: choosing the turn touches nothing the invariant reads, and every turn keeps it. -/
theorem stepKeepsTheInvariant : Obligations.StepKeepsTheInvariant := by
  unfold Obligations.StepKeepsTheInvariant
  intro s t h hstep
  obtain ⟨turns, fresh, hnext⟩ := nextTurn_frame s
  have hs : Inv (nextTurn s).2 := hnext ▸ h.with_turns turns fresh
  exact hs.act hstep

/-! ### Construction -/

theorem inv_resetOf (c : Cfg) : Inv (State.resetOf c) :=
  .of_idle rfl rfl (Nat.zero_le 16) (Nat.zero_le _) rfl (fun h => by cases h)

/-- No acquisition is in progress right after construction. -/
theorem inFlight_resetOf (c : Cfg) : InFlight (State.resetOf c) := fun hb => absurd rfl hb

/-- Settles O27: a block right after construction is idle, with the pins and the ranges of idle. -/
theorem invariantHoldsAtReset : Obligations.InvariantHoldsAtReset := by
  unfold Obligations.InvariantHoldsAtReset
  exact ⟨fun c => ⟨inv_resetOf c, inFlight_resetOf c⟩, inv_resetOf Cfg.default⟩

/-- The default build is a legal one (R37). -/
theorem Cfg.default_legal : Cfg.default.legal = true := by
  simp only [Cfg.legal, Bool.and_eq_true, Cfg.rateWithinRating_iff]
  refine ⟨⟨⟨rfl, rfl⟩, le_rfl⟩, ?_⟩
  simp [Cfg.errorDistinct, Cfg.default, errorValue_distinct]

/-- Settles O22: a legal configuration is constructed in the reset state, and the default build is a legal one. -/
theorem firstResetState : Obligations.FirstResetState := by
  unfold Obligations.FirstResetState
  refine ⟨fun c hc => ⟨_, construct_legal hc, ?_⟩, construct_legal Cfg.default_legal⟩
  exact ⟨rfl, rfl, rfl, rfl, rfl, rfl, rfl, rfl, rfl⟩

end Sys2Proof.Machine
end

section
/-!
PROOFS. Which steps move chip-select, the clock and the response word (R26, R31, R32).
-/

namespace Sys2Proof.Machine

/-! ### The pins -/

/-- A turn that moves chip-select is a reset, starts an acquisition, or triggers, opens or closes one (R31). -/
theorem act_csN_ne {u : Turn} {s t : State} (h : act u s = .next t) (hne : t.csN ≠ s.csN) :
    u = .reset true ∨
    (∃ c, u = .command c ∧ s.ph = .idle ∧ (decode c = .ok .acq ∨ decode c = .ok .tempf)) ∨
    (u = .sequencer ∧
      (enabledMicro s = some .trigger ∨ enabledMicro s = some .openf ∨ enabledMicro s = some .close)) := by
  obtain rfl | ⟨c, i, rfl, -, hp, hdec, hi, rfl⟩ | ⟨c, i, r, -, -, -, -, -, rfl⟩ | ⟨m, rfl, -, he, rfl⟩ | ⟨-, -, -, rfl⟩ |
    ⟨a, -, -, rfl⟩ | ⟨rfl, -⟩ | ⟨-, rfl⟩ := act_next h
  · exact absurd rfl hne
  · refine .inr (.inl ⟨c, rfl, hp, ?_⟩)
    obtain rfl | rfl := hi
    · exact .inl hdec
    · exact .inr hdec
  · exact absurd rfl hne
  · obtain ⟨-, -, hcs, -⟩ := runMicro_frame m s
    refine .inr (.inr ⟨rfl, ?_⟩)
    rw [he]
    by_contra hm
    simp only [Option.some.injEq, not_or] at hm
    obtain ⟨hm1, hm2, hm3⟩ := hm
    exact hne (hcs hm1 hm2 hm3)
  · exact absurd rfl hne
  · exact absurd rfl hne
  · exact .inl rfl
  · exact absurd rfl hne

/-- A turn that moves the clock is a reset, or raises or lowers it for a pulse (R32). -/
theorem act_sck_ne {u : Turn} {s t : State} (h : act u s = .next t) (hne : t.sck ≠ s.sck) :
    u = .reset true ∨
    (u = .sequencer ∧
      (enabledMicro s = some .clkhi ∧ t.sck = true ∨ enabledMicro s = some .clklo ∧ t.sck = false)) := by
  obtain rfl | ⟨c, i, -, -, -, -, -, rfl⟩ | ⟨c, i, r, -, -, -, -, -, rfl⟩ | ⟨m, rfl, -, he, rfl⟩ | ⟨-, -, -, rfl⟩ |
    ⟨a, -, -, rfl⟩ | ⟨rfl, -⟩ | ⟨-, rfl⟩ := act_next h
  · exact absurd rfl hne
  · exact absurd rfl hne
  · exact absurd rfl hne
  · obtain ⟨-, -, -, hsck, -⟩ := runMicro_frame m s
    refine .inr ⟨rfl, ?_⟩
    by_cases hhi : m = .clkhi
    · exact .inl ⟨hhi ▸ he, by rw [hhi]; rfl⟩
    by_cases hlo : m = .clklo
    · exact .inr ⟨hlo ▸ he, by rw [hlo]; rfl⟩
    exact absurd (hsck hhi hlo) hne
  · exact absurd rfl hne
  · exact absurd rfl hne
  · exact .inl rfl
  · exact absurd rfl hne

/-- The clock is high only in the two phases of a pulse (R28, R32). -/
theorem Inv.sck_high {s : State} (h : Inv s) (hsck : s.sck = true) : s.ph = .hi ∨ s.ph = .smp := by
  obtain ⟨-, hpin, -⟩ := h.pins_at rfl
  cases hp : s.ph <;> simp [hp, hsck, pinsOf] at hpin ⊢

/-- Settles O32: the turn taken off the list is the one that moves a pin, and the phase table fixes the idle levels. -/
theorem pinsChangeOnlyWhereTheRulesSay : Obligations.PinsChangeOnlyWhereTheRulesSay := by
  unfold Obligations.PinsChangeOnlyWhereTheRulesSay
  intro s t u rest hturns h
  rw [step_listed hturns] at h
  have hcs := act_csN_ne h
  have hsck := act_sck_ne h
  exact ⟨hcs, hsck, fun hinv hp => (hinv.pins_at hp).1, fun hinv => hinv.sck_high⟩

/-! ### The response -/

/-- A turn that writes the response word completes a command, or is a reset (R26). -/
theorem act_rsp_ne {u : Turn} {s t : State} (h : act u s = .next t) (hne : t.rsp ≠ s.rsp) :
    u = .reset true ∨
    (t.rspValid = true ∧ t.ph = .idle ∧ (∃ before, t.tr = before ++ [.rsp t.rsp]) ∧
      ((∃ c, u = .command c) ∨ u = .sequencer ∧ enabledMicro s = some .close)) := by
  obtain rfl | ⟨c, i, -, -, -, -, -, rfl⟩ | ⟨c, i, r, rfl, -, hp, -, -, rfl⟩ | ⟨m, rfl, -, he, rfl⟩ | ⟨-, -, -, rfl⟩ |
    ⟨a, -, -, rfl⟩ | ⟨rfl, -⟩ | ⟨-, rfl⟩ := act_next h
  · exact absurd rfl hne
  · exact absurd rfl hne
  · exact .inr ⟨rfl, hp, ⟨_, rfl⟩, .inl ⟨c, rfl⟩⟩
  · obtain ⟨-, hkeep, -⟩ := runMicro_frame m s
    by_cases hm : m = .close
    · subst hm
      exact .inr ⟨rfl, rfl, ⟨_, rfl⟩, .inr ⟨rfl, he⟩⟩
    · exact absurd (hkeep hm).1 hne
  · exact absurd rfl hne
  · exact absurd rfl hne
  · exact .inl rfl
  · exact absurd rfl hne

/-- Settles O33: only the turn that completes a command, or a reset, writes the response word. -/
theorem responseChangesOnlyOnCompletion : Obligations.ResponseChangesOnlyOnCompletion := by
  unfold Obligations.ResponseChangesOnlyOnCompletion
  intro s t u rest hturns h
  rw [step_listed hturns] at h
  have hrsp := act_rsp_ne h
  exact hrsp

end Sys2Proof.Machine
end

section
/-!
PROOFS. The trace is written and never read (R34, C12): a step commutes with putting other events before the trace.
-/

namespace Sys2Proof.Machine

/-- An outcome with `f` applied to its next state; a fault or a refusal stays what it is. -/
def mapNext (f : State → State) : Host.Outcome State Fault Refusal → Host.Outcome State Fault Refusal
  | .next s => .next (f s)
  | .fault r => .fault r
  | .refused r => .refused r

@[simp] theorem mapNext_next (f : State → State) (s : State) : mapNext f (.next s) = .next (f s) := rfl
@[simp] theorem mapNext_fault (f : State → State) (r : Fault) : mapNext f (.fault r) = .fault r := rfl
@[simp] theorem mapNext_refused (f : State → State) (r : Refusal) : mapNext f (.refused r) = .refused r := rfl

theorem mapNext_eq_next_iff {f : State → State} {o : Host.Outcome State Fault Refusal} {t : State} :
    mapNext f o = .next t ↔ ∃ s, o = .next s ∧ f s = t := by
  cases o <;> simp [mapNext]

theorem mapNext_eq_fault_iff {f : State → State} {o : Host.Outcome State Fault Refusal} {r : Fault} :
    mapNext f o = .fault r ↔ o = .fault r := by
  cases o <;> simp [mapNext]

theorem mapNext_eq_refused_iff {f : State → State} {o : Host.Outcome State Fault Refusal} {r : Refusal} :
    mapNext f o = .refused r ↔ o = .refused r := by
  cases o <;> simp [mapNext]

/-- Which bits are drawn depends on the bits listed and the counter only. -/
theorem drawBits_congr {s s' : State} (hline : s.line = s'.line) (hfresh : s.fresh = s'.fresh) (k : Nat) :
    (drawBits k s).1 = (drawBits k s').1 := by
  induction k generalizing s s' with
  | zero => rfl
  | succ k ih =>
    simp only [drawBits, sampleData_eq, hline, hfresh]
    exact congrArg _ (ih rfl rfl)

/-- Other events stand before the trace. -/
def State.precededBy (before : List Event) (s : State) : State := { s with tr := before ++ s.tr }

section

variable (before : List Event) (s : State)

theorem runMicro_precededBy (m : Micro) :
    runMicro m (s.precededBy before) = (runMicro m s).precededBy before := by
  cases m with
  | trigger => simp [runMicro, microTrigger_eq, State.precededBy]
  | openf => simp [runMicro, microOpenf_eq, State.precededBy]
  | clkhi => simp [runMicro, microClkhi_eq, State.precededBy]
  | sample => simp [runMicro, microSample_draws, sampleData_eq, State.precededBy]
  | clklo => simp [runMicro, microClklo_eq, State.precededBy]
  | beginBus => simp [runMicro, microBegin_eq, State.precededBy]
  | xfer =>
    have hd : (drawBits 16 (s.precededBy before)).1 = (drawBits 16 s).1 :=
      drawBits_congr (s := s.precededBy before) (s' := s) rfl rfl 16
    simp only [runMicro, microXfer_draws, hd]
    simp [State.precededBy]
  | endBus => simp [runMicro, microEnd_eq, State.precededBy]
  | close => simp [runMicro, microClose_eq, closeRsp, State.precededBy]

theorem sequencerTurn_precededBy :
    sequencerTurn (s.precededBy before) = mapNext (State.precededBy before) (sequencerTurn s) := by
  have he : enabledMicro (s.precededBy before) = enabledMicro s := rfl
  have hh : holdOf (s.precededBy before) = holdOf s := rfl
  have hp : (s.precededBy before).ph = s.ph := rfl
  simp only [sequencerTurn, he, hh, hp]
  split
  · simp [runMicro_precededBy]
  · split <;> rfl

theorem afterLatch_precededBy (c : Cfg) (i : Instr) :
    afterLatch c i (s.precededBy before) = (afterLatch c i s).precededBy before := by
  cases i <;> simp [afterLatch, microStart_eq, State.respond, State.precededBy]

theorem hostTurn_precededBy (c : Cmd) :
    hostTurn c (s.precededBy before) = mapNext (State.precededBy before) (hostTurn c s) := by
  have hr : (s.precededBy before).rst = s.rst := rfl
  have hp : (s.precededBy before).ph = s.ph := rfl
  have hl : ∀ w, (s.precededBy before).latchCommand w = (s.latchCommand w).precededBy before := by
    simp [State.latchCommand, State.precededBy]
  cases hdec : decode c with
  | ok i =>
    simp only [hostTurn_of_decode hdec, exec_eq_accept, accept, hr, hp, hl, afterLatch_precededBy]
    split <;> (try split) <;> rfl
  | error e =>
    simp only [hostTurn, hdec, hr, hp]
    split <;> (try split) <;> rfl

theorem resetBlock_precededBy : resetBlock (s.precededBy before) = (resetBlock s).precededBy before := by
  simp [resetBlock, releasePins_eq, unspecify, resetEvents, State.goto, State.precededBy]

theorem act_precededBy (u : Turn) :
    act u (s.precededBy before) = mapNext (State.precededBy before) (act u s) := by
  have hr : (s.precededBy before).rst = s.rst := rfl
  cases u with
  | command c => exact hostTurn_precededBy before s c
  | sequencer =>
    simp only [act, hr, sequencerTurn_precededBy]
    split <;> rfl
  | tick =>
    have hd : (s.precededBy before).dly = s.dly := rfl
    simp only [act, hr, tickTurn, hd]
    split <;> (try split) <;> rfl
  | bus avail =>
    have ho : (s.precededBy before).own = s.own := rfl
    simp only [act, busTurn, ho]
    split <;> rfl
  | reset level =>
    cases level with
    | true =>
      simp only [act, resetTurn, resetBlock_precededBy]
      rfl
    | false => rfl
  | interrupt => rfl

theorem nextTurn_precededBy :
    nextTurn (s.precededBy before) = ((nextTurn s).1, (nextTurn s).2.precededBy before) := by
  have ht : (s.precededBy before).turns = s.turns := rfl
  unfold nextTurn
  rw [ht]
  split <;> rfl

/-- A step commutes with putting other events before the trace (R34). -/
theorem step_precededBy : step (s.precededBy before) = mapNext (State.precededBy before) (step s) := by
  simp only [step, nextTurn_precededBy, act_precededBy]

end

/-- Settles O34: the step commutes with putting the other events before the trace. -/
theorem traceIsNeverRead : Obligations.TraceIsNeverRead := by
  unfold Obligations.TraceIsNeverRead
  intro s before
  have hcomm := step_precededBy before s
  refine ⟨fun t h => ?_, fun f h => ?_, fun r h => ?_⟩ <;> rw [h] at hcomm <;> exact hcomm

/-- Settles O35: what a step emits it would also emit after an empty trace, and the events so far stand before it. -/
theorem traceOnlyGrows : Obligations.TraceOnlyGrows := by
  unfold Obligations.TraceOnlyGrows
  intro s t h
  have hcomm := step_precededBy s.tr { s with tr := [] }
  have hs : State.precededBy s.tr { s with tr := [] } = s := by simp [State.precededBy]
  rw [hs, h] at hcomm
  obtain ⟨t₀, -, rfl⟩ := mapNext_eq_next_iff.1 hcomm.symm
  exact ⟨t₀.tr, rfl⟩

end Sys2Proof.Machine
end

section
/-!
PROOFS. Leftovers (R26, R41, R43): what a step does depends only on the live part of the state, in which every register
that no rule may read before writing it is set to zero.
-/

namespace Sys2Proof.Machine

/-- The live part of a state. `SR` and `N` count only while the frame is open (R43, R116), `DLY` and `CMDR` only in an
acquisition (R25, R30), `RSP` only while it is valid (R36). -/
def State.live (s : State) : State := { s with
  sr := if frameOpen s.ph then s.sr else 0
  n := if frameOpen s.ph then s.n else 0
  dly := if s.ph = .idle then 0 else s.dly
  cmdr := if s.ph = .idle then 0 else s.cmdr
  rsp := if s.rspValid then s.rsp else 0 }

/-- An acquisition in progress was asked for by `ACQ` or `TEMPF` (R25, R87). -/
def KnownCommand (s : State) : Prop := s.ph ≠ .idle → s.cmdr = encode .acq ∨ s.cmdr = encode .tempf

@[simp] theorem State.live_live (s : State) : s.live.live = s.live := by
  simp only [State.live]
  split_ifs <;> rfl

/-! ### Every turn reads only the live part -/

/-- `CLOSE` of an acquisition reads only live registers (R131). -/
theorem closeRsp_live {s : State} (hb : s.ph ≠ .idle) (ho : frameOpen s.ph = true) (hk : KnownCommand s) :
    closeRsp s.live = closeRsp s := by
  have hc : s.live.cmdr = s.cmdr := by simp [State.live, hb]
  have hsr : s.live.sr = s.sr := by simp [State.live, ho]
  obtain h | h := hk hb
  · rw [closeRsp_acq h, closeRsp_acq (hc.trans h), hsr]
  · rw [closeRsp_tempf h, closeRsp_tempf (hc.trans h), hsr]

theorem runMicro_live {s : State} {m : Micro} (hk : KnownCommand s) (he : enabledMicro s = some m) :
    (runMicro m s.live).live = (runMicro m s).live := by
  obtain ⟨rfl, hp, -⟩ | ⟨rfl, hp, -⟩ | ⟨rfl, hp, -⟩ | ⟨rfl, hp⟩ | ⟨rfl, hp⟩ | ⟨rfl, hp, -⟩ | ⟨rfl, hp⟩ |
    ⟨rfl, hp⟩ | ⟨rfl, hend⟩ := enabledMicro_cases he
  · cases hv : s.rspValid <;> simp [runMicro, microTrigger_eq, State.live, hp, hv, frameOpen]
  · cases hv : s.rspValid <;> simp [runMicro, microOpenf_eq, State.live, hp, hv, frameOpen]
  · cases hv : s.rspValid <;> simp [runMicro, microClkhi_eq, State.live, hp, hv, frameOpen]
  · cases hv : s.rspValid <;> simp [runMicro, microSample_draws, sampleData_eq, State.live, hp, hv, frameOpen]
  · cases hv : s.rspValid <;> simp [runMicro, microClklo_eq, State.live, hp, hv, frameOpen]
  · cases hv : s.rspValid <;> simp [runMicro, microBegin_eq, State.live, hp, hv, frameOpen]
  · have hd : (drawBits 16 s.live).1 = (drawBits 16 s).1 := drawBits_congr (s := s.live) (s' := s) rfl rfl 16
    simp only [runMicro, microXfer_draws, hd]
    cases hv : s.rspValid <;> simp [State.live, hp, hv, frameOpen]
  · cases hv : s.rspValid <;> simp [runMicro, microEnd_eq, State.live, hp, hv, frameOpen]
  · have hopen : s.ph ≠ .idle ∧ frameOpen s.ph = true := by
      obtain ⟨-, hp, -⟩ | ⟨-, hp⟩ := hend <;> simp [hp, frameOpen]
    obtain ⟨hb, ho⟩ := hopen
    simp only [runMicro, microClose_eq, closeRsp_live hb ho hk]
    simp [State.live, frameOpen]

theorem enabledMicro_live (s : State) : enabledMicro s.live = enabledMicro s := by
  cases hp : s.ph <;> simp [enabledMicro, State.live, hp, frameOpen]

theorem holdOf_live (s : State) : holdOf s.live = holdOf s := by
  cases hp : s.ph <;> simp [holdOf, State.live, hp]

theorem sequencerTurn_live {s : State} (hk : KnownCommand s) :
    mapNext State.live (sequencerTurn s.live) = mapNext State.live (sequencerTurn s) := by
  have hp : s.live.ph = s.ph := rfl
  simp only [sequencerTurn, enabledMicro_live, holdOf_live, hp]
  cases he : enabledMicro s with
  | some m => simp [runMicro_live hk he]
  | none =>
    simp only
    split <;> simp

/-- Once the word is latched in an idle block, nothing that earlier commands left is live any more (R87, R112). -/
theorem afterLatch_leftovers {s : State} (hp : s.ph = .idle) (c : Cfg) (i : Instr) (w : Cmd) (sr : Word) (n : BitVec 5)
    (dly : Nat) (cmdr : Cmd) (rsp : Rsp) (valid : Bool) :
    (afterLatch c i (State.latchCommand w
      { s with sr := sr, n := n, dly := dly, cmdr := cmdr, rsp := rsp, rspValid := valid })).live =
      (afterLatch c i (s.latchCommand w)).live := by
  cases i <;>
    simp [afterLatch, microStart_eq, State.respond, State.latchCommand, State.live, hp, frameOpen]

theorem hostTurn_live (s : State) (c : Cmd) :
    mapNext State.live (hostTurn c s.live) = mapNext State.live (hostTurn c s) := by
  have hr : s.live.rst = s.rst := rfl
  have hp : s.live.ph = s.ph := rfl
  have hc : s.live.cfg = s.cfg := rfl
  cases hdec : decode c with
  | ok i =>
    simp only [hostTurn_of_decode hdec, exec_eq_accept, accept, hr, hp, hc]
    split
    · simp
    · split
      · rfl
      · next hi => exact congrArg Host.Outcome.next (afterLatch_leftovers (not_not.1 hi) ..)
  | error e =>
    simp only [hostTurn, hdec, hr, hp]
    split
    · simp
    · rfl

/-- A tick takes one off the delay, where there is one (R196). -/
theorem tickTurn_eq (s : State) : tickTurn s = { s with dly := s.dly - 1 } := by
  unfold tickTurn
  split
  · rfl
  · next h => rw [show s.dly - 1 = s.dly by omega]

theorem tickTurn_live (s : State) : (tickTurn s.live).live = (tickTurn s).live := by
  simp only [tickTurn_eq, State.live]
  split_ifs <;> rfl

/-- A reset leaves nothing live but what it resets (R42, R212). -/
theorem resetBlock_live (s : State) : (resetBlock s.live).live = (resetBlock s).live := by
  simp [resetBlock, releasePins_eq, unspecify, resetEvents, State.goto, State.live, frameOpen]

theorem act_live {s : State} (hk : KnownCommand s) (u : Turn) :
    mapNext State.live (act u s.live) = mapNext State.live (act u s) := by
  have hr : s.live.rst = s.rst := rfl
  cases u with
  | command c => exact hostTurn_live s c
  | sequencer =>
    simp only [act, hr]
    split
    · simp
    · exact sequencerTurn_live hk
  | tick =>
    simp only [act, hr]
    split
    · simp
    · simp [tickTurn_live]
  | bus avail =>
    have ho : s.live.own = s.own := rfl
    simp only [act, busTurn, ho]
    split
    · rfl
    · exact congrArg Host.Outcome.next (congrArg (fun t : State => { t with busAvail := avail }) s.live_live)
  | reset level =>
    cases level with
    | true => exact congrArg Host.Outcome.next (congrArg (fun t : State => { t with rst := true }) (resetBlock_live s))
    | false => exact congrArg Host.Outcome.next (congrArg (fun t : State => { t with rst := false }) s.live_live)
  | interrupt => simp [act]

/-! ### Runs -/

theorem nextTurn_live (s : State) : nextTurn s.live = ((nextTurn s).1, (nextTurn s).2.live) := by
  have ht : s.live.turns = s.turns := rfl
  unfold nextTurn
  rw [ht]
  split <;> rfl

/-- A turn keeps that an acquisition in progress was asked for by `ACQ` or `TEMPF`. -/
theorem KnownCommand.act {u : Turn} {s t : State} (hk : KnownCommand s) (h : act u s = .next t) : KnownCommand t := by
  obtain rfl | ⟨c, i, -, -, -, -, hi, rfl⟩ | ⟨c, i, r, -, -, hp, -, -, rfl⟩ | ⟨m, -, -, he, rfl⟩ | ⟨-, -, -, rfl⟩ |
    ⟨a, -, -, rfl⟩ | ⟨-, rfl⟩ | ⟨-, rfl⟩ := act_next h
  · exact hk
  · exact fun _ => hi.imp (congrArg encode) (congrArg encode)
  · exact fun hb => absurd hp hb
  · obtain ⟨⟨hcmd, -⟩, -⟩ := runMicro_frame m s
    intro _
    rw [hcmd]
    exact hk (enabledMicro_busy he)
  · exact hk
  · exact hk
  · exact fun hb => absurd rfl hb
  · exact hk

theorem KnownCommand.nextTurn {s : State} (hk : KnownCommand s) : KnownCommand (nextTurn s).2 := by
  obtain ⟨turns, fresh, h⟩ := nextTurn_frame s
  rw [h]
  exact hk

theorem KnownCommand.step {s t : State} (hk : KnownCommand s) (h : step s = .next t) : KnownCommand t :=
  hk.nextTurn.act h

theorem step_live {s : State} (hk : KnownCommand s) :
    mapNext State.live (step s.live) = mapNext State.live (step s) := by
  simp only [step, nextTurn_live]
  exact act_live hk.nextTurn _

/-- Two states with the same live part take the same step, up to what is not live. -/
theorem step_live_congr {s s' : State} (hk : KnownCommand s) (hk' : KnownCommand s') (h : s.live = s'.live) :
    mapNext State.live (step s) = mapNext State.live (step s') := by
  rw [← step_live hk, h, step_live hk']

/-- The same of any number of steps. -/
theorem steps_live_congr (k : Nat) {s s' : State} (hk : KnownCommand s) (hk' : KnownCommand s')
    (h : s.live = s'.live) : mapNext State.live (steps k s) = mapNext State.live (steps k s') := by
  induction k generalizing s s' with
  | zero => exact congrArg Host.Outcome.next h
  | succ k ih =>
    have hone := step_live_congr hk hk' h
    cases hs : step s <;> rw [hs] at hone
    case next t =>
      obtain ⟨t', hs', hlive⟩ := mapNext_eq_next_iff.1 hone.symm
      rw [steps_succ hs, steps_succ hs']
      exact ih (hk.step hs) (hk'.step hs') hlive.symm
    case fault r =>
      have hs' := mapNext_eq_fault_iff.1 hone.symm
      simp only [steps, hs, hs']
    case refused r =>
      have hs' := mapNext_eq_refused_iff.1 hone.symm
      simp only [steps, hs, hs']

theorem State.live_answer (s : State) : s.live.answer = s.answer := by
  cases hv : s.rspValid <;> simp [State.answer, State.live, hv]

/-- An idle block outside reset accepts the command of an operation (R87). -/
theorem step_command_ready {s : State} {i : Instr} {rest : List Turn} (hr : s.rst = false) (hp : s.ph = .idle)
    (ht : s.turns = .command (encode i) :: rest) :
    step s = .next (afterLatch s.cfg i (State.latchCommand (encode i) { s with turns := rest })) := by
  rw [stepRunsTheDecodedCommand s _ rest i ht (decode_encode i), exec_eq_accept]
  exact accept_ready hr hp

/-- What the host and the outside world observe is live. -/
theorem observed_of_live {s s' : State} (h : s.live = s'.live) :
    s.tr = s'.tr ∧ s.pins = s'.pins ∧ s.ph = s'.ph ∧ s.answer = s'.answer := by
  have htr := congrArg State.tr h
  have hpins := congrArg State.pins h
  have hph := congrArg State.ph h
  exact ⟨htr, hpins, hph, by rw [← s.live_answer, ← s'.live_answer, h]⟩

/-- Settles O36: accepting the command leaves the two blocks with the same live part, and no step reads more. -/
theorem leftoversNeverReachALaterCommand : Obligations.LeftoversNeverReachALaterCommand := by
  unfold Obligations.LeftoversNeverReachALaterCommand
  intro s i rest sr n dly cmdr rsp valid k hr hp hturns s'
  have hruns : mapNext State.live (steps (k + 1) s') = mapNext State.live (steps (k + 1) s) := by
    have hs := step_command_ready hr hp hturns
    have hs' := step_command_ready (s := s') hr hp hturns
    have hk : KnownCommand s := fun hb => absurd hp hb
    have hk' : KnownCommand s' := fun hb => absurd hp hb
    rw [steps_succ hs, steps_succ hs']
    exact steps_live_congr k (hk'.step hs') (hk.step hs)
      (afterLatch_leftovers (s := { s with turns := rest }) hp s.cfg i (encode i) sr n dly cmdr rsp valid)
  refine ⟨fun t h => ?_, fun f h => ?_, fun r h => ?_⟩ <;> rw [h] at hruns
  · obtain ⟨t', ht', hlive⟩ := mapNext_eq_next_iff.1 hruns
    exact ⟨t', ht', observed_of_live hlive⟩
  · exact mapNext_eq_fault_iff.1 hruns
  · exact mapNext_eq_refused_iff.1 hruns

end Sys2Proof.Machine
end

section
/-!
PROOFS. What goes on around the block: the turns of ticks, bus owners and interrupts (R65, R124, R188, R196), and the two
holds, which no number of other turns ends (R17, R70, R187).
-/

namespace Sys2Proof.Machine

/-! ### Turns of neither the host nor reset -/

/-- A turn of neither the host nor reset (R21). -/
def QuietTurn (u : Turn) : Prop := u = .tick ∨ u = .sequencer ∨ u = .interrupt ∨ ∃ a, u = .bus a

/-- A schedule without commands and resets has only the turns of the other agents (R21). -/
theorem Undisturbed.turn {σ : Schedule} (h : Undisturbed σ) (k : Nat) : QuietTurn (σ k) := by
  obtain ⟨hcommand, hreset⟩ := h k
  cases hu : σ k with
  | command c => exact absurd hu (hcommand c)
  | reset level => exact absurd hu (hreset level)
  | sequencer => exact .inr (.inl rfl)
  | tick => exact .inl rfl
  | bus a => exact .inr (.inr (.inr ⟨a, rfl⟩))
  | interrupt => exact .inr (.inr (.inl rfl))

/-- Everything such a turn can do: nothing, a micro-step, a tick off the delay, or a new level of `bus_avail`. -/
theorem act_quiet {u : Turn} {s t : State} (hu : QuietTurn u) (h : act u s = .next t) : t = s ∨
    (∃ m, u = .sequencer ∧ s.rst = false ∧ enabledMicro s = some m ∧ t = runMicro m s) ∨
    (u = .tick ∧ 0 < s.dly ∧ t = { s with dly := s.dly - 1 }) ∨
    (∃ a, u = .bus a ∧ t = { s with busAvail := a }) := by
  obtain rfl | ⟨c, i, rfl, -⟩ | ⟨c, i, r, rfl, -⟩ | hmicro | ⟨htick, -, hd, ht⟩ | ⟨a, hbus, -, ht⟩ | ⟨rfl, -⟩ |
    ⟨rfl, -⟩ := act_next h
  · exact .inl rfl
  · simp [QuietTurn] at hu
  · simp [QuietTurn] at hu
  · exact .inr (.inl hmicro)
  · exact .inr (.inr (.inl ⟨htick, hd, ht⟩))
  · exact .inr (.inr (.inr ⟨a, hbus, ht⟩))
  · simp [QuietTurn] at hu
  · simp [QuietTurn] at hu

/-- Ticks, bus owners and interrupts write the delay and the level of `bus_avail` at most. -/
theorem act_environment {u : Turn} {s t : State} (hu : u = .tick ∨ u = .interrupt ∨ ∃ a, u = .bus a)
    (h : act u s = .next t) : ∃ dly avail, t = { s with dly := dly, busAvail := avail } := by
  obtain rfl | ⟨m, rfl, -⟩ | ⟨-, -, rfl⟩ | ⟨a, -, rfl⟩ := act_quiet (hu.imp_right .inr) h
  · exact ⟨t.dly, t.busAvail, rfl⟩
  · simp at hu
  · exact ⟨s.dly - 1, s.busAvail, rfl⟩
  · exact ⟨s.dly, a, rfl⟩

/-- Settles O20: such a turn writes the delay and `bus_avail` at most, and taking it off the list writes neither. -/
theorem environmentTurnsAreSilent : Obligations.EnvironmentTurnsAreSilent := by
  unfold Obligations.EnvironmentTurnsAreSilent
  intro s t u rest hturns hu h
  rw [step_listed hturns] at h
  obtain ⟨dly, avail, rfl⟩ := act_environment hu h
  exact ⟨rfl, rfl, rfl, rfl, rfl, rfl, rfl, rfl, rfl, rfl, rfl, rfl⟩

/-! ### The holds -/

theorem holdOf_eq_waitTick_iff (s : State) :
    holdOf s = some .waitTick ↔ (s.ph = .stop ∨ s.ph = .conv) ∧ 0 < s.dly := by
  cases hp : s.ph <;> simp [holdOf, hp]

theorem holdOf_eq_waitBus_iff (s : State) :
    holdOf s = some .waitBus ↔ s.cfg.mode = .hw ∧ s.ph = .opened ∧ s.busAvail = false := by
  cases hp : s.ph <;> simp [holdOf, hp]

/-- What holds the block is a delay that runs, or the bus in HW mode (R187). -/
theorem holdOf_isSome_cases {s : State} (h : (holdOf s).isSome) :
    ((s.ph = .stop ∨ s.ph = .conv) ∧ 0 < s.dly) ∨ (s.cfg.mode = .hw ∧ s.ph = .opened ∧ s.busAvail = false) := by
  obtain ⟨hold, hh⟩ := Option.isSome_iff_exists.1 h
  cases hold with
  | waitTick => exact .inl ((holdOf_eq_waitTick_iff s).1 hh)
  | waitBus => exact .inr ((holdOf_eq_waitBus_iff s).1 hh)

/-- A held block has no micro-step to take. -/
theorem enabledMicro_of_held {s : State} (h : (holdOf s).isSome) : enabledMicro s = none := by
  obtain ⟨hp | hp, hd⟩ | ⟨hm, hp, ha⟩ := holdOf_isSome_cases h
  · simp [enabledMicro, hp, hd.ne']
  · simp [enabledMicro, hp, hd.ne']
  · simp [enabledMicro, hp, hm, ha]

/-- In both holds the bus is not owned (R28). -/
theorem Inv.own_of_held {s : State} (h : Inv s) (hh : (holdOf s).isSome) : s.own = false := by
  obtain ⟨-, -, hown, -⟩ := h.pins_at rfl
  rw [hown]
  obtain ⟨hp | hp, -⟩ | ⟨-, hp, -⟩ := holdOf_isSome_cases hh <;> rw [hp] <;> rfl

/-- Everything such a turn does to a held block, which owns no bus: only a tick and a bus owner change anything. -/
theorem act_held {u : Turn} {s : State} (hr : s.rst = false) (hown : s.own = false) (hh : (holdOf s).isSome)
    (hu : QuietTurn u) :
    (u = .tick ∧ act u s = .next { s with dly := s.dly - 1 }) ∨
    ((u = .sequencer ∨ u = .interrupt) ∧ act u s = .next s) ∨
    (∃ a, u = .bus a ∧ act u s = .next { s with busAvail := a }) := by
  obtain rfl | rfl | rfl | ⟨a, rfl⟩ := hu
  · exact .inl ⟨rfl, by simp [act, hr, tickTurn_eq]⟩
  · exact .inr (.inl ⟨.inl rfl, by simp [act, hr, sequencerTurn, enabledMicro_of_held hh, hh]⟩)
  · exact .inr (.inl ⟨.inr rfl, rfl⟩)
  · exact .inr (.inr ⟨a, rfl, by simp [act, busTurn, hown]⟩)

section

variable {σ : Schedule} {s : State} (hσ : Undisturbed σ) (hr : s.rst = false) (hown : s.own = false)
include hσ hr hown

/-- Without a tick only `bus_avail` moves while a delay runs. -/
theorem runBy_without_tick (hh : holdOf s = some .waitTick) (htick : ∀ k, σ k ≠ .tick) (k : Nat) :
    ∃ a, runBy σ s k = .next { s with busAvail := a } := by
  induction k with
  | zero => exact ⟨s.busAvail, rfl⟩
  | succ k ih =>
    obtain ⟨a, hk⟩ := ih
    have hheld : holdOf { s with busAvail := a } = some .waitTick := by
      rw [holdOf_eq_waitTick_iff] at hh ⊢
      exact hh
    rw [runBy_succ hk]
    obtain ⟨hu, -⟩ | ⟨-, h⟩ | ⟨a', -, h⟩ :=
      act_held (s := { s with busAvail := a }) hr hown (by simp [hheld]) (hσ.turn k)
    · exact absurd hu (htick k)
    · exact ⟨a, h⟩
    · exact ⟨a', h⟩

/-- Until the bus is released only `DLY` moves while the block waits for it. -/
theorem runBy_without_bus (hh : holdOf s = some .waitBus) (hbus : ∀ k, σ k ≠ .bus true) (k : Nat) :
    ∃ dly, runBy σ s k = .next { s with dly := dly } := by
  induction k with
  | zero => exact ⟨s.dly, rfl⟩
  | succ k ih =>
    obtain ⟨dly, hk⟩ := ih
    obtain ⟨-, -, havail⟩ := (holdOf_eq_waitBus_iff s).1 hh
    have hheld : holdOf { s with dly := dly } = some .waitBus := by
      rw [holdOf_eq_waitBus_iff] at hh ⊢
      exact hh
    rw [runBy_succ hk]
    obtain ⟨-, h⟩ | ⟨-, h⟩ | ⟨a, hu, h⟩ :=
      act_held (s := { s with dly := dly }) hr hown (by simp [hheld]) (hσ.turn k)
    · exact ⟨dly - 1, h⟩
    · exact ⟨dly, h⟩
    · have ha : a = s.busAvail := by
        cases a with
        | true => exact absurd hu (hbus k)
        | false => exact havail.symm
      exact ⟨dly, by rw [h, ha]⟩

end

/-- Settles O42: while the one turn that would lift the hold does not come, the others move only `bus_avail`, or only
`DLY`. -/
theorem noTimeoutEndsAHold : Obligations.NoTimeoutEndsAHold := by
  unfold Obligations.NoTimeoutEndsAHold
  intro σ s hinv hr hσ
  refine ⟨fun hp hd htick k => ?_, fun hm hp ha hbus k => ?_⟩
  · have hh := (holdOf_eq_waitTick_iff s).2 ⟨hp, hd⟩
    obtain ⟨a, hk⟩ := runBy_without_tick hσ hr (hinv.own_of_held (by simp [hh])) hh htick k
    exact ⟨_, hk, rfl, rfl, rfl⟩
  · have hh := (holdOf_eq_waitBus_iff s).2 ⟨hm, hp, ha⟩
    obtain ⟨dly, hk⟩ := runBy_without_bus hσ hr (hinv.own_of_held (by simp [hh])) hh hbus k
    obtain ⟨hcs, -⟩ := hinv.pins_at hp
    exact ⟨_, hk, hp, hcs, rfl⟩

end Sys2Proof.Machine
end

section
/-!
PROOFS. The frame (R54, R81, R82): which bit of the raw word, and of its fields, each position of the frame is, and what
a healthy chip's frame decodes to (R61).
-/

namespace Sys2Proof.Machine

/-- Position `k` of a frame is the bit as many places from the low end as bits come after it. -/
theorem getElem?_eq_testBit_frameSum {d : List Bool} {k : Nat} (hk : k < d.length) :
    d[k]? = some ((frameSum d).testBit (d.length - 1 - k)) := by
  induction d generalizing k with
  | nil => simp at hk
  | cons b d ih =>
    have hbit := Nat.testBit_two_pow_mul_add b.toNat (frameSum_lt d)
    simp only [frameSum, Nat.mul_comm b.toNat, hbit]
    cases k with
    | zero => cases b <;> simp
    | succ k =>
      have hk' : k < d.length := by simpa using hk
      have hlt : (b :: d).length - 1 - (k + 1) < d.length := by simp; omega
      rw [if_pos hlt, List.getElem?_cons_succ, ih hk']
      congr 2
      simp
      omega

/-- The number the bits spell, as the sum of R54. -/
theorem frameSum_eq_sum (d : List Bool) :
    frameSum d = ∑ k ∈ Finset.range d.length, (d.getD k false).toNat * 2 ^ (d.length - 1 - k) := by
  induction d with
  | nil => rfl
  | cons b d ih =>
    rw [List.length_cons, Finset.sum_range_succ', frameSum, ih, add_comm]
    congr 1
    refine Finset.sum_congr rfl fun k _ => ?_
    rw [List.getD_cons_succ, Nat.add_sub_cancel, Nat.sub_sub, Nat.add_comm k 1]

section

variable {d : List Bool} (hlen : d.length = 16)
include hlen

/-- A frame of 16 bits fits the word. -/
theorem frameWord_toNat_of_length : (frameWord d).toNat = frameSum d := by
  have hlt := frameSum_lt d
  rw [hlen] at hlt
  rw [frameWord_toNat, Nat.mod_eq_of_lt hlt]

/-- Position `k` of the frame is bit `15 - k` of the raw word (R54). -/
theorem getElem?_eq_getLsbD_frameWord {k : Nat} (hk : k < 16) : d[k]? = some ((frameWord d).getLsbD (15 - k)) := by
  rw [getElem?_eq_testBit_frameSum (hlen ▸ hk), hlen, BitVec.getLsbD, frameWord_toNat_of_length hlen]

/-- The high byte of the raw word is the byte that arrives first. -/
theorem frameWord_div_256 : (frameWord d).toNat / 256 = frameSum (d.take 8) := by
  have happend := frameSum_append (d.take 8) (d.drop 8)
  have hlow := frameSum_lt (d.drop 8)
  rw [List.take_append_drop, List.length_drop, hlen] at happend
  rw [List.length_drop, hlen] at hlow
  rw [frameWord_toNat_of_length hlen]
  omega

end

/-- The magnitude's bits are bits 3 to 14 of the raw word (R82). -/
theorem getLsbD_mag (w : Word) {j : Nat} (hj : j < 12) : (mag w).getLsbD j = w.getLsbD (3 + j) := by
  have hmask : (0xFFF#16).getLsbD j = true := by interval_cases j <;> rfl
  rw [mag, BitVec.getLsbD_and, hmask, Bool.and_true, BitVec.getLsbD_ushiftRight]

/-- Settles O43: every field of the raw word is one position of the frame, or a row of them. -/
theorem frameArrivesMostSignificantFirst : Obligations.FrameArrivesMostSignificantFirst := by
  unfold Obligations.FrameArrivesMostSignificantFirst
  intro d hlen
  have hbit : ∀ k, k < 16 → d[k]? = some ((frameWord d).getLsbD (15 - k)) :=
    fun k hk => getElem?_eq_getLsbD_frameWord hlen hk
  have hsum : (frameWord d).toNat = ∑ k ∈ Finset.range 16, (d.getD k false).toNat * 2 ^ (15 - k) := by
    rw [frameWord_toNat_of_length hlen, frameSum_eq_sum, hlen]
  have hmag : ∀ j, j < 12 → d[1 + j]? = some ((mag (frameWord d)).getLsbD (11 - j)) := by
    intro j hj
    rw [hbit (1 + j) (by omega), getLsbD_mag _ (by omega), show 15 - (1 + j) = 3 + (11 - j) by omega]
  exact ⟨hbit, hsum, hbit 0 (by decide), hmag, hbit 13 (by decide), hbit 14 (by decide), hbit 15 (by decide),
    frameWord_div_256 hlen⟩

/-! ### A healthy chip -/

theorem mag_toNat (w : Word) : (mag w).toNat = w.toNat / 8 % 4096 := by
  rw [mag, BitVec.toNat_and, BitVec.toNat_ushiftRight, Nat.shiftRight_eq_div_pow]
  exact Nat.and_two_pow_sub_one_eq_mod _ 12

/-- The magnitude is what positions 1 to 12 of the frame spell (R54, R82). -/
theorem mag_frameWord {d : List Bool} (hlen : d.length = 16) :
    (mag (frameWord d)).toNat = frameSum ((d.drop 1).take 12) := by
  have hsplit : d = d.take 1 ++ ((d.drop 1).take 12 ++ d.drop 13) := by
    conv_lhs => rw [← List.take_append_drop 1 d, ← List.take_append_drop 12 (d.drop 1), List.drop_drop]
  have hmid : frameSum ((d.drop 1).take 12) < 2 ^ 12 := by simpa [hlen] using frameSum_lt ((d.drop 1).take 12)
  have hlow : frameSum (d.drop 13) < 2 ^ 3 := by simpa [hlen] using frameSum_lt (d.drop 13)
  have hsum : frameSum d =
      frameSum (d.take 1) * 2 ^ 15 + (frameSum ((d.drop 1).take 12) * 2 ^ 3 + frameSum (d.drop 13)) := by
    simpa [frameSum_append, hlen] using congrArg frameSum hsplit
  rw [mag_toNat, frameWord_toNat_of_length hlen, hsum]
  omega

/-- A sample with neither flag set decodes to its magnitude (R156). -/
theorem tempRsp_of_no_error {w : Word} (hf : fault w = false) (hi : ident w = false) :
    tempRsp w = mkRsp true (mag w) := by
  simp [tempRsp, hf, hi]

/-- The frame of a healthy chip with a connected thermocouple has neither flag set, and its magnitude is the chip's
(R61). -/
theorem ChipOK.tempRsp_frameWord {d : List Bool} {latency waited m : Nat} (h : ChipOK d false latency waited m) :
    tempRsp (frameWord d) = mkRsp true (BitVec.ofNat 16 m) ∧ m ≤ 4095 := by
  have hfault : (frameWord d).getLsbD 2 = false :=
    Option.some.inj ((getElem?_eq_getLsbD_frameWord h.length (by decide)).symm.trans h.fault)
  have hident : (frameWord d).getLsbD 1 = false :=
    Option.some.inj ((getElem?_eq_getLsbD_frameWord h.length (by decide)).symm.trans h.identity)
  have hmag : (mag (frameWord d)).toNat = m := (mag_frameWord h.length).trans h.reading
  rw [tempRsp_of_no_error hfault hident, ← hmag, BitVec.ofNat_toNat, BitVec.setWidth_eq]
  refine ⟨rfl, ?_⟩
  rw [mag_toNat]
  omega

end Sys2Proof.Machine
end

section
/-!
PROOFS. Progress (R70, R199): every tick that is waited for and every enabled micro-step takes one off the work left, and
under the named premises such turns never cease, so every acquisition ends.
-/

namespace Sys2Proof.Machine

/-! ### A turn of progress -/

/-- A turn that brings the acquisition on: a tick that is waited for, or an enabled micro-step (R199). -/
def Useful (u : Turn) (s : State) : Prop :=
  u = .tick ∧ holdOf s = some .waitTick ∨ u = .sequencer ∧ (enabledMicro s).isSome

/-- While the clock is high the bit is not counted yet (R29). -/
theorem Inv.count_lt {s : State} (h : Inv s) (hp : s.ph = .hi ∨ s.ph = .smp) : s.n.toNat < 16 := by
  have hcount := h.count
  obtain hp | hp := hp <;> rw [hp] at hcount <;> exact of_decide_eq_true hcount

theorem workLeft_runMicro {s : State} {m : Micro} (h : Inv s) (he : enabledMicro s = some m) :
    workLeft (runMicro m s) + 1 = workLeft s := by
  have hphase := h.phase
  obtain ⟨rfl, hp, hd⟩ | ⟨rfl, hp, hd⟩ | ⟨rfl, hp, hmode, hlt⟩ | ⟨rfl, hp⟩ | ⟨rfl, hp⟩ | ⟨rfl, hp, hmode, -⟩ |
    ⟨rfl, hp⟩ | ⟨rfl, hp⟩ | ⟨rfl, ⟨hmode, hp, hn⟩ | ⟨hmode, hp⟩⟩ := enabledMicro_cases he
  · cases hm : s.cfg.mode <;> simp [workLeft, runMicro, microTrigger_eq, hp, hd, hm] <;> omega
  · cases hm : s.cfg.mode <;> simp [workLeft, runMicro, microOpenf_eq, hp, hd, hm]
  · simp [workLeft, runMicro, microClkhi_eq, hp, hmode]
  · have hlt := h.count_lt (.inl hp)
    simp [workLeft, runMicro, microSample_draws, hp]
    omega
  · have hlt := h.count_lt (.inr hp)
    have hmode : s.cfg.mode = .sw := by simpa [hp, phaseOfMode] using hphase
    simp [workLeft, runMicro, microClklo_eq, hp, hmode]
    omega
  · simp [workLeft, runMicro, microBegin_eq, hp, hmode]
  · simp [workLeft, runMicro, microXfer_draws, hp]
  · simp [workLeft, runMicro, microEnd_eq, hp]
  · simp [workLeft, runMicro, microClose_eq, hp, hmode, hn]
  · simp [workLeft, runMicro, microClose_eq, hp]

/-- A tick takes one off the work left if it is waited for, and nothing otherwise. -/
theorem workLeft_tick (s : State) :
    workLeft { s with dly := s.dly - 1 } ≤ workLeft s ∧
    (holdOf s = some .waitTick → workLeft { s with dly := s.dly - 1 } + 1 = workLeft s) := by
  rw [holdOf_eq_waitTick_iff]
  cases hp : s.ph <;> simp [workLeft, hp] <;> omega

/-- No turn but the host's and reset adds work (R199). -/
theorem workLeft_act_le {u : Turn} {s t : State} (h : Inv s) (hu : QuietTurn u) (ha : act u s = .next t) :
    workLeft t ≤ workLeft s := by
  obtain rfl | ⟨m, -, -, he, rfl⟩ | ⟨-, -, rfl⟩ | ⟨a, -, rfl⟩ := act_quiet hu ha
  · exact le_rfl
  · have := workLeft_runMicro h he
    omega
  · exact (workLeft_tick s).1
  · exact le_rfl

/-- A useful turn takes one off the work left (R199). -/
theorem workLeft_act_useful {u : Turn} {s t : State} (h : Inv s) (hr : s.rst = false) (hu : Useful u s)
    (ha : act u s = .next t) : workLeft t + 1 = workLeft s := by
  obtain ⟨rfl, hh⟩ | ⟨rfl, he⟩ := hu
  · have htick : t = { s with dly := s.dly - 1 } := by simpa [act, hr, tickTurn_eq] using ha.symm
    exact htick ▸ (workLeft_tick s).2 hh
  · obtain ⟨m, hm⟩ := Option.isSome_iff_exists.1 he
    have hmicro : t = runMicro m s := by simpa [act_sequencer hr hm] using ha.symm
    exact hmicro ▸ workLeft_runMicro h hm

/-! ### Turns answer, and only `CLOSE` ends an acquisition -/

/-- The sequencer of a busy block has a micro-step to take or is held (R187). -/
theorem Inv.enabled_or_held {s : State} (h : Inv s) (hb : s.ph ≠ .idle) :
    (enabledMicro s).isSome ∨ (holdOf s).isSome := by
  have hphase := h.phase
  have hcount := h.count
  cases hp : s.ph with
  | idle => exact absurd hp hb
  | stop => by_cases hd : s.dly = 0 <;> simp [enabledMicro, holdOf, hp, hd]; omega
  | conv => by_cases hd : s.dly = 0 <;> simp [enabledMicro, holdOf, hp, hd]; omega
  | opened =>
    cases hm : s.cfg.mode with
    | sw =>
      have hle : s.n ≤ 16 := by simpa [hp, hm, countOk] using hcount
      by_cases hlt : s.n < 16
      · exact .inl (by simp only [enabledMicro, hp, hm, if_pos hlt, Option.isSome_some])
      · have hn : s.n = 16 := BitVec.le_antisymm hle (BitVec.not_lt.1 hlt)
        simp [enabledMicro, hp, hm, hn]
    | hw => cases ha : s.busAvail <;> simp [enabledMicro, holdOf, hp, hm, ha]
  | hi => simp [enabledMicro, hp]
  | smp => simp [enabledMicro, hp]
  | owned => simp [enabledMicro, hp]
  | xferd => simp [enabledMicro, hp]
  | released =>
    have hm : s.cfg.mode = .hw := by simpa [hp, phaseOfMode] using hphase
    simp [enabledMicro, hp, hm]

/-- A turn of neither the host nor reset answers a next state, if the bracket is honoured. -/
theorem act_answers {u : Turn} {s : State} (h : Inv s) (hu : QuietTurn u) (hbus : s.own = true → u ≠ .bus false) :
    ∃ t, act u s = .next t := by
  obtain rfl | rfl | rfl | ⟨a, rfl⟩ := hu
  · cases hr : s.rst <;> simp [act, hr]
  · cases hr : s.rst
    · simp only [act, hr, sequencerTurn]
      cases he : enabledMicro s with
      | some m => exact ⟨_, rfl⟩
      | none =>
        have hidle : s.ph = .idle ∨ (holdOf s).isSome := by
          by_contra hc
          rw [not_or] at hc
          simpa [he, hc.2] using h.enabled_or_held hc.1
        exact ⟨s, by simp [hidle]⟩
    · exact ⟨s, by simp [act, hr]⟩
  · exact ⟨s, rfl⟩
  · cases ho : s.own
    · simp [act, busTurn, ho]
    · have ha : a = true := by
        cases a with
        | true => rfl
        | false => exact absurd rfl (hbus ho)
      simp [act, busTurn, ho, ha]

/-- No turn but reset moves the level RST (R211). -/
theorem act_quiet_rst {u : Turn} {s t : State} (hu : QuietTurn u) (ha : act u s = .next t) : t.rst = s.rst := by
  obtain rfl | ⟨m, -, -, -, rfl⟩ | ⟨-, -, rfl⟩ | ⟨a, -, rfl⟩ := act_quiet hu ha
  · rfl
  · obtain ⟨⟨-, hrst, -⟩, -⟩ := runMicro_frame m s
    exact hrst
  · rfl
  · rfl

/-- Every micro-step but `CLOSE` leaves the block busy. -/
theorem runMicro_ph_ne_idle {m : Micro} (hm : m ≠ .close) (s : State) : (runMicro m s).ph ≠ .idle := by
  cases m with
  | close => exact absurd rfl hm
  | openf => simp [runMicro, microOpenf_eq]
  | sample => simp [runMicro, microSample_draws]
  | xfer => simp [runMicro, microXfer_draws]
  | trigger => simp [runMicro, microTrigger_eq]
  | clkhi => simp [runMicro, microClkhi_eq]
  | clklo => simp [runMicro, microClklo_eq]
  | beginBus => simp [runMicro, microBegin_eq]
  | endBus => simp [runMicro, microEnd_eq]

/-- A busy block stays busy or comes to `IDLE` with a valid response (R131). -/
theorem act_quiet_busy {u : Turn} {s t : State} (hu : QuietTurn u) (hb : s.ph ≠ .idle)
    (ha : act u s = .next t) : t.ph ≠ .idle ∨ (t.ph = .idle ∧ t.rspValid = true) := by
  obtain rfl | ⟨m, -, -, -, rfl⟩ | ⟨-, -, rfl⟩ | ⟨a, -, rfl⟩ := act_quiet hu ha
  · exact .inl hb
  · by_cases hm : m = .close
    · subst hm
      exact .inr ⟨rfl, rfl⟩
    · exact .inl (runMicro_ph_ne_idle hm s)
  · exact .inl hb
  · exact .inl hb

/-! ### Runs by a schedule -/

/-- A run by a schedule that nobody disturbs, as the sequence of its states. -/
structure QuietRun (σ : Schedule) (r : Nat → State) : Prop where
  turn : ∀ k, QuietTurn (σ k)
  next : ∀ k, act (σ k) (r k) = .next (r (k + 1))
  inv : ∀ k, Inv (r k)
  rst : ∀ k, (r k).rst = false

/-- In SW mode the block never owns the bus (R22). -/
theorem Inv.own_of_sw {s : State} (h : Inv s) (hm : s.cfg.mode = .sw) : s.own = false := by
  obtain ⟨-, -, hown, -⟩ := h.pins_at rfl
  have hphase := h.phase
  cases hp : s.ph <;> simp_all [pinsOf, phaseOfMode]

/-- What every turn keeps, a run by a schedule keeps. -/
theorem runBy_keeps {P : State → Prop} (hP : ∀ u s t, P s → act u s = .next t → P t) {σ : Schedule} {s : State}
    (hs : P s) {k : Nat} {t : State} (h : runBy σ s k = .next t) : P t := by
  induction k generalizing t with
  | zero =>
    cases h
    exact hs
  | succ k ih =>
    cases hk : runBy σ s k with
    | next r =>
      rw [runBy_succ hk] at h
      exact hP _ _ _ (ih hk) h
    | fault f => simp [runBy, hk] at h
    | refused f => simp [runBy, hk] at h

theorem runBy_cfg {σ : Schedule} {s t : State} {k : Nat} (h : runBy σ s k = .next t) : t.cfg = s.cfg :=
  runBy_keeps (P := fun t => t.cfg = s.cfg) (fun _ _ _ hs ha => (act_cfg ha).trans hs) rfl h

/-- In SW mode there is no bracket to honour. -/
theorem bracketHonoured_of_sw {σ : Schedule} {s : State} (h : Inv s) (hm : s.cfg.mode = .sw) : BracketHonoured σ s := by
  intro k t hk hown
  have ht : Inv t := runBy_keeps (P := Inv) (fun _ _ _ hs ha => hs.act ha) h hk
  simp [ht.own_of_sw (runBy_cfg hk ▸ hm)] at hown

/-- With the bracket honoured and neither commands nor resets the run is without end. -/
theorem exists_quietRun {σ : Schedule} {s : State} (h : Inv s) (hr : s.rst = false) (hσ : Undisturbed σ)
    (hbus : BracketHonoured σ s) : ∃ r, QuietRun σ r ∧ ∀ k, runBy σ s k = .next (r k) := by
  have hstates : ∀ k, ∃ t, runBy σ s k = .next t ∧ Inv t ∧ t.rst = false := by
    intro k
    induction k with
    | zero => exact ⟨s, rfl, h, hr⟩
    | succ k ih =>
      obtain ⟨t, hk, ht, hrt⟩ := ih
      obtain ⟨t', ha⟩ := act_answers ht (hσ.turn k) (hbus k t hk)
      exact ⟨t', (runBy_succ hk).trans ha, ht.act ha, (act_quiet_rst (hσ.turn k) ha).trans hrt⟩
  choose r hrun hinv hrst using hstates
  exact ⟨r, ⟨hσ.turn, fun k => (runBy_succ (hrun k)).symm.trans (hrun (k + 1)), hinv, hrst⟩, hrun⟩

/-! ### While no useful turn comes -/

/-- `t` has come no further than `s` in the acquisition: the phase, the count and a delay that runs are the same. -/
structure Stalled (s t : State) : Prop where
  cfg : t.cfg = s.cfg
  ph : t.ph = s.ph
  n : t.n = s.n
  dly : s.ph = .stop ∨ s.ph = .conv → t.dly = s.dly

theorem Stalled.refl (s : State) : Stalled s s := ⟨rfl, rfl, rfl, fun _ => rfl⟩

theorem Stalled.trans {s t w : State} (h : Stalled s t) (h' : Stalled t w) : Stalled s w :=
  ⟨h'.cfg.trans h.cfg, h'.ph.trans h.ph, h'.n.trans h.n, fun hp => (h'.dly (h.ph ▸ hp)).trans (h.dly hp)⟩

/-- A turn that is not useful leaves the acquisition where it was. -/
theorem stalled_act {u : Turn} {s t : State} (hu : QuietTurn u)
    (hn : ¬ Useful u s) (ha : act u s = .next t) : Stalled s t := by
  obtain rfl | ⟨m, rfl, -, he, -⟩ | ⟨rfl, hd, rfl⟩ | ⟨a, -, rfl⟩ := act_quiet hu ha
  · exact .refl t
  · exact absurd (.inr ⟨rfl, by simp [he]⟩) hn
  · exact ⟨rfl, rfl, rfl, fun hp => absurd (.inl ⟨rfl, (holdOf_eq_waitTick_iff s).2 ⟨hp, hd⟩⟩) hn⟩
  · exact ⟨rfl, rfl, rfl, fun _ => rfl⟩

/-- A delay that is waited for is still waited for. -/
theorem Stalled.waitTick {s t : State} (h : Stalled s t) (hs : holdOf s = some .waitTick) :
    holdOf t = some .waitTick := by
  rw [holdOf_eq_waitTick_iff] at hs ⊢
  rw [h.ph, h.dly hs.1]
  exact hs

/-- An enabled micro-step is still enabled; for `BEGIN` the bus has to be available still. -/
theorem Stalled.enabled {s t : State} (h : Stalled s t) (hbus : wantsBus s = true → t.busAvail = s.busAvail) :
    enabledMicro t = enabledMicro s := by
  obtain ⟨hcfg, hph, hn, hdly⟩ := h
  unfold wantsBus at hbus
  unfold enabledMicro
  rw [hph, hcfg, hn]
  cases hp : s.ph <;> cases hm : s.cfg.mode <;> simp_all

/-- Only another owner takes the bus away. -/
theorem act_busAvail {u : Turn} {s t : State} (hu : QuietTurn u)
    (hkeep : u ≠ .bus false) (hs : s.busAvail = true) (ha : act u s = .next t) : t.busAvail = true := by
  obtain rfl | ⟨m, -, -, -, rfl⟩ | ⟨-, -, rfl⟩ | ⟨a, rfl, rfl⟩ := act_quiet hu ha
  · exact hs
  · obtain ⟨⟨-, -, havail⟩, -⟩ := runMicro_frame m s
    exact havail.trans hs
  · exact hs
  · simpa using hkeep

section

variable {σ : Schedule} {r : Nat → State} (hrun : QuietRun σ r) {k : Nat} (hno : ∀ j, k ≤ j → ¬ Useful (σ j) (r j))
include hrun hno

theorem QuietRun.stalled {j : Nat} (hj : k ≤ j) : Stalled (r k) (r j) := by
  induction j, hj using Nat.le_induction with
  | base => exact .refl _
  | succ j hj ih => exact ih.trans (stalled_act (hrun.turn j) (hno j hj) (hrun.next j))

/-- A bus that has come free stays free while the block wants it, if the other owners are fair (R70). -/
theorem QuietRun.busAvail (hstays : ∀ j, wantsBus (r j) = true → (r j).busAvail = true → σ j ≠ .bus false)
    (hw : wantsBus (r k) = true) (ha : (r k).busAvail = true) {j : Nat} (hj : k ≤ j) : (r j).busAvail = true := by
  induction j, hj using Nat.le_induction with
  | base => exact ha
  | succ j hj ih =>
    have hstall := hrun.stalled hno hj
    have hwants : wantsBus (r j) = true := by
      rw [← hw, wantsBus, wantsBus, hstall.cfg, hstall.ph]
    exact act_busAvail (hrun.turn j) (hstays j hwants ih) ih (hrun.next j)

/-- Where no useful turn comes, the sequencer is not fair to the micro-step that is enabled. -/
theorem QuietRun.not_enabled (hfair : ∀ i, ∃ j, i ≤ j ∧ (σ j = .sequencer ∨ enabledMicro (r j) = none))
    (hbus : wantsBus (r k) = true → ∀ j, k ≤ j → (r j).busAvail = (r k).busAvail) : enabledMicro (r k) = none := by
  obtain ⟨j, hj, hseq⟩ := hfair k
  have hsame : enabledMicro (r j) = enabledMicro (r k) := (hrun.stalled hno hj).enabled fun hw => hbus hw j hj
  by_contra he
  rw [← hsame] at he
  obtain hseq | hnone := hseq
  · exact hno j hj (.inr ⟨hseq, Option.isSome_iff_ne_none.2 he⟩)
  · exact he hnone

end

/-- The premises bring a useful turn again and again, as long as the block is busy (R70, R199). -/
theorem QuietRun.exists_useful {σ : Schedule} {r : Nat → State} (hrun : QuietRun σ r) (hticks : Ticks σ)
    (hfair : ∀ i, ∃ j, i ≤ j ∧ (σ j = .sequencer ∨ enabledMicro (r j) = none))
    (hoften : ∀ k, wantsBus (r k) = true → ∃ j, k ≤ j ∧ (r j).busAvail = true)
    (hstays : ∀ j, wantsBus (r j) = true → (r j).busAvail = true → σ j ≠ .bus false)
    {k : Nat} (hb : (r k).ph ≠ .idle) : ∃ j, k ≤ j ∧ Useful (σ j) (r j) := by
  by_contra hno
  push Not at hno
  by_cases hw : wantsBus (r k) = true
  · obtain ⟨i, hi, ha⟩ := hoften k hw
    have hlater : ∀ j, i ≤ j → ¬ Useful (σ j) (r j) := fun j hj => hno j (hi.trans hj)
    have hstall := hrun.stalled hno hi
    have hwi : wantsBus (r i) = true := by
      rw [← hw, wantsBus, wantsBus, hstall.cfg, hstall.ph]
    have hnone := hrun.not_enabled hlater hfair fun _ j hj => by
      rw [hrun.busAvail hlater hstays hwi ha hj, ha]
    obtain ⟨hm, hp⟩ : (r i).cfg.mode = .hw ∧ (r i).ph = .opened := by simpa [wantsBus] using hwi
    simp [enabledMicro, hp, hm, ha] at hnone
  · have hnone := hrun.not_enabled hno hfair fun hw' => absurd hw' hw
    obtain he | hh := (hrun.inv k).enabled_or_held hb
    · simp [hnone] at he
    obtain htick | ⟨hm, hp, -⟩ := holdOf_isSome_cases hh
    · obtain ⟨j, hj, hu⟩ := hticks k
      exact hno j hj (.inl ⟨hu, (hrun.stalled hno hj).waitTick ((holdOf_eq_waitTick_iff _).2 htick)⟩)
    · exact hw (by simp [wantsBus, hm, hp])

/-- If useful turns come again and again while the block is busy, its acquisition ends: the work left cannot shrink for
ever (R199). -/
theorem QuietRun.ends {σ : Schedule} {r : Nat → State} (hrun : QuietRun σ r) (hb : (r 0).ph ≠ .idle)
    (huseful : ∀ k, (r k).ph ≠ .idle → ∃ j, k ≤ j ∧ Useful (σ j) (r j)) :
    ∃ k, (r k).ph = .idle ∧ (r k).rspValid = true := by
  by_contra hnever
  have hbusy : ∀ k, (r k).ph ≠ .idle := by
    intro k
    induction k with
    | zero => exact hb
    | succ k ih =>
      exact (act_quiet_busy (hrun.turn k) ih (hrun.next k)).resolve_right fun h => hnever ⟨k + 1, h⟩
  have hanti : Antitone fun k => workLeft (r k) :=
    antitone_nat_of_succ_le fun k => workLeft_act_le (hrun.inv k) (hrun.turn k) (hrun.next k)
  obtain ⟨k, hmin⟩ : ∃ k, ∀ j, workLeft (r k) ≤ workLeft (r j) :=
    ⟨Function.argmin fun k => workLeft (r k), fun j => Function.argmin_le (fun k => workLeft (r k)) j⟩
  obtain ⟨j, hj, hu⟩ := huseful k (hbusy k)
  have hless := workLeft_act_useful (hrun.inv j) (hrun.rst j) hu (hrun.next j)
  have hle : workLeft (r j) ≤ workLeft (r k) := hanti hj
  have hge := hmin (j + 1)
  omega

/-- Settles O41: the premises bring useful turns again and again, and each takes one off the work left. -/
theorem everyAcquisitionEnds : Obligations.EveryAcquisitionEnds := by
  unfold Obligations.EveryAcquisitionEnds
  intro σ s h hr hb hσ hticks hfair hhw
  have hbracket : BracketHonoured σ s := by
    cases hm : s.cfg.mode with
    | sw => exact bracketHonoured_of_sw h hm
    | hw => exact (hhw hm).2
  obtain ⟨r, hrun, hstates⟩ := exists_quietRun h hr hσ hbracket
  have hmode : ∀ k, wantsBus (r k) = true → s.cfg.mode = .hw := by
    intro k hw
    obtain ⟨hm, -⟩ : (r k).cfg.mode = .hw ∧ (r k).ph = .opened := by simpa [wantsBus] using hw
    exact runBy_cfg (hstates k) ▸ hm
  have hfair' : ∀ i, ∃ j, i ≤ j ∧ (σ j = .sequencer ∨ enabledMicro (r j) = none) := by
    simpa [WeaklyFair, hstates] using hfair
  have hoften : ∀ k, wantsBus (r k) = true → ∃ j, k ≤ j ∧ (r j).busAvail = true := by
    intro k hw
    obtain ⟨hfree, -⟩ := hhw (hmode k hw)
    simpa [hstates] using hfree.often k
  have hstays : ∀ j, wantsBus (r j) = true → (r j).busAvail = true → σ j ≠ .bus false := by
    intro j hw ha
    obtain ⟨hfree, -⟩ := hhw (hmode j hw)
    exact hfree.stays j (r j) (hstates j) hw ha
  have hstart : r 0 = s := by simpa using (hstates 0).symm
  have hb0 : (r 0).ph ≠ .idle := by simpa [hstart, State.busy] using hb
  obtain ⟨k, hp, hv⟩ := hrun.ends hb0 fun k hk => hrun.exists_useful hticks hfair' hoften hstays hk
  obtain ⟨-, htrace⟩ := (hrun.inv k).response hv
  exact ⟨k, r k, hstates k, hp, hv, htrace⟩

end Sys2Proof.Machine
end

section
/-!
PROOFS. The prompt run of an acquisition (95_test_vectors.md V29, V30): the state after each stretch of its turns, and the
state it ends in, both as one equation (R112 to R133); and what a healthy chip's frame then gives (R61, R162, R221).
-/

namespace Sys2Proof.Machine

/-- A run goes on from the state its first steps lead to. -/
theorem steps_add {j k : Nat} {s t : State} (h : steps j s = .next t) : steps (j + k) s = steps k t := by
  induction j generalizing s with
  | zero =>
    cases h
    rw [Nat.zero_add]
  | succ j ih =>
    cases hs : step s with
    | next r =>
      rw [steps_succ hs] at h
      rw [Nat.succ_add, steps_succ hs, ih h]
    | fault f => simp [steps, hs] at h
    | refused f => simp [steps, hs] at h

/-- Ticks that are all waited for run the delay down (R196). -/
theorem steps_ticks {k : Nat} {s : State} {rest : List Turn} (ht : s.turns = List.replicate k .tick ++ rest)
    (hr : s.rst = false) (hk : k ≤ s.dly) : steps k s = .next { s with turns := rest, dly := s.dly - k } := by
  induction k generalizing s with
  | zero =>
    subst ht
    rfl
  | succ k ih =>
    have hone := step_tick (rest := List.replicate k .tick ++ rest) ht hr (by omega)
    refine (steps_succ hone).trans (Eq.trans (ih rfl hr (Nat.le_sub_one_of_lt hk)) ?_)
    rw [Nat.sub_sub, Nat.add_comm 1 k]

/-- The sequencer's turn, as one step of a run. -/
theorem steps_micro {k : Nat} {s : State} {rest : List Turn} {m : Micro} (ht : s.turns = .sequencer :: rest)
    (hr : s.rst = false) (he : enabledMicro s = some m) :
    steps (k + 1) s = steps k (runMicro m { s with turns := rest }) :=
  steps_succ (step_sequencer ht hr he)

/-- The delay's ticks, then the micro-step they were waited for (R113, R116). -/
theorem steps_delay {s : State} {rest : List Turn} {m : Micro}
    (ht : s.turns = List.replicate s.dly .tick ++ .sequencer :: rest) (hr : s.rst = false)
    (he : enabledMicro { s with dly := 0 } = some m) :
    steps (s.dly + 1) s = .next (runMicro m { s with turns := rest, dly := 0 }) := by
  rw [steps_add (steps_ticks ht hr le_rfl), Nat.sub_self]
  exact steps_micro rfl hr he

/-- A block whose frame has just been opened by the operation `i` (R116). -/
def frameOpened (i : Instr) (rest : List Turn) (s : State) : State := { s with
  turns := rest, ph := .opened, csN := false, im := maskUsed s.cfg, sr := 0, n := 0, dly := 0
  cmdr := encode i, rspValid := false, tr := s.tr ++ openingEvents s.cfg (encode i) }

/-- From the command to the open frame (R87, R112, R113, R116). -/
theorem steps_opening {s : State} {i : Instr} {rest : List Turn} (hs : Ready s) (hi : i = .acq ∨ i = .tempf)
    (ht : s.turns = .command (encode i) :: (List.replicate s.cfg.tCslow .tick ++ .sequencer ::
      (List.replicate s.cfg.tConv .tick ++ .sequencer :: rest))) :
    steps ((s.cfg.tCslow + 1) + (s.cfg.tConv + 1) + 1) s = .next (frameOpened i rest s) := by
  obtain ⟨hr, hp, hpins⟩ := hs
  obtain ⟨hcs, -, -, him⟩ := (State.pins_eq_iff _ _).1 hpins
  have hlatch : afterLatch s.cfg i = microStart := by obtain rfl | rfl := hi <;> rfl
  have hstart := step_command_ready hr hp ht
  rw [hlatch, microStart_eq] at hstart
  have htrigger := steps_delay (m := .trigger) (rest := List.replicate s.cfg.tConv .tick ++ .sequencer :: rest)
    (s := microStart (State.latchCommand (encode i) { s with turns := List.replicate s.cfg.tCslow .tick ++ .sequencer ::
      (List.replicate s.cfg.tConv .tick ++ .sequencer :: rest) })) rfl hr rfl
  refine (steps_succ hstart).trans ((steps_add htrigger).trans ?_)
  refine Eq.trans (steps_delay (m := .openf) (rest := rest) rfl hr rfl) ?_
  simp [runMicro, microOpenf_eq, microTrigger_eq, microStart_eq, State.latchCommand, frameOpened, openingEvents, ifMasked,
    pinsOf, hcs, him]

/-- A pulse of the clock shifts the next bit in (R119, R120, R121). -/
theorem steps_pulse {s : State} {b : Bool} {more : List Bool} {rest : List Turn} {k : Nat} (hr : s.rst = false)
    (hm : s.cfg.mode = .sw) (hp : s.ph = .opened) (hn : s.n < 16) (hline : s.line = b :: more)
    (ht : s.turns = List.replicate 3 .sequencer ++ rest) :
    steps (k + 3) s = steps k { s with
      turns := rest, line := more, sck := false, sr := shiftIn s.sr b, n := s.n + 1
      tr := s.tr ++ [.sckRise, .sample b, .sckFall] } := by
  have hclkhi : enabledMicro s = some .clkhi := by simp only [enabledMicro, hp, hm, if_pos hn]
  refine Eq.trans (steps_micro ht hr hclkhi) (Eq.trans (steps_micro (m := .sample) rfl hr rfl) ?_)
  rw [runMicro, runMicro, microSample_draws, microClkhi_eq]
  refine Eq.trans (steps_micro (m := .clklo) rfl hr rfl) (congrArg (steps k) ?_)
  simp [runMicro, microClklo_eq, sampleData_eq, hline, hp]

/-- The clock pulses of the bits that are left of a frame (R119 to R123). -/
theorem steps_pulses {d more : List Bool} {rest : List Turn} {s : State} (hr : s.rst = false) (hm : s.cfg.mode = .sw)
    (hp : s.ph = .opened) (hsck : s.sck = false) (hn : s.n.toNat + d.length = 16) (hline : s.line = d ++ more)
    (ht : s.turns = List.replicate (3 * d.length) .sequencer ++ rest) :
    steps (3 * d.length) s = .next { s with
      turns := rest, line := more, sr := d.foldl shiftIn s.sr, n := 16, tr := s.tr ++ pulses d } := by
  induction d generalizing s with
  | nil =>
    have hn16 : s.n = 16 := BitVec.eq_of_toNat_eq hn
    obtain rfl : s.line = more := hline
    obtain rfl : s.turns = rest := ht
    simp only [pulses, List.append_nil, ← hn16]
    rfl
  | cons b d ih =>
    rw [List.length_cons] at hn
    have hlt : s.n < 16 := by
      rw [BitVec.lt_def]
      exact Nat.lt_of_lt_of_eq (by omega) hn
    have hsucc : (s.n + 1).toNat + d.length = 16 := by
      have : (s.n + 1).toNat = s.n.toNat + 1 := by bv_omega
      omega
    refine Eq.trans (steps_pulse hr hm hp hlt hline ht) (Eq.trans (ih hr hm hp rfl hsucc rfl rfl) ?_)
    simp [pulses, hsck]

/-- Shifting bits in one by one leaves the number they spell behind what was there (R120, R123). -/
theorem foldl_shiftIn_toNat (d : List Bool) (w : Word) :
    (d.foldl shiftIn w).toNat = (w.toNat * 2 ^ d.length + frameSum d) % 2 ^ 16 := by
  induction d generalizing w with
  | nil => simpa [frameSum] using (Nat.mod_eq_of_lt w.isLt).symm
  | cons b d ih =>
    rw [List.foldl_cons, ih, shiftIn_toNat, frameSum, List.length_cons, Nat.add_mod, Nat.mod_mul_mod, ← Nat.add_mod]
    congr 1
    ring

/-- From a cleared `SR` the shifts leave the raw word of the frame (R54, R123). -/
theorem foldl_shiftIn_zero (d : List Bool) : d.foldl shiftIn 0 = frameWord d := by
  apply BitVec.eq_of_toNat_eq
  simp [foldl_shiftIn_toNat, frameWord_toNat]

/-- `CLOSE` answers what the operation answers for the bits of the frame (R131, R133, R162). -/
theorem closeRsp_eq_responseTo {s : State} {i : Instr} {d : List Bool} (hi : i = .acq ∨ i = .tempf)
    (hc : s.cmdr = encode i) (hsr : s.sr = frameWord d) : closeRsp s = responseTo (encode i) d := by
  obtain rfl | rfl := hi
  · simp [closeRsp_acq hc, responseTo, hsr, encode, opField_packCommand]
  · simp [closeRsp_tempf hc, responseTo, hsr, encode, opField_packCommand, opAcq, opTempf]

/-- The bus taken, sixteen bits at once, and the bus given back (R126, R128, R130). -/
theorem steps_bracket {s : State} {d more : List Bool} {rest : List Turn} (hr : s.rst = false) (hm : s.cfg.mode = .hw)
    (hp : s.ph = .opened) (hbus : s.busAvail = true) (hlen : d.length = 16) (hline : s.line = d ++ more)
    (ht : s.turns = List.replicate 3 .sequencer ++ rest) :
    steps 3 s = .next { s with
      turns := rest, line := more, sr := frameWord d, n := 16, own := false, per := none, ph := .released
      tr := s.tr ++ bracketEvents d } := by
  have hbegin : enabledMicro s = some .beginBus := by simp [enabledMicro, hp, hm, hbus]
  refine Eq.trans (steps_micro ht hr hbegin) ?_
  rw [runMicro, microBegin_eq]
  refine Eq.trans (steps_micro (m := .xfer) rfl hr rfl) ?_
  rw [runMicro, microXfer_listed (d := d) (rest := more) hlen]
  · refine Eq.trans (steps_micro (m := .endBus) rfl hr rfl) (congrArg Host.Outcome.next ?_)
    simp [runMicro, microEnd_eq, bracketEvents]
  · exact hline

/-- The last turn: `CLOSE`, with the response to the bits of the frame (R131). -/
theorem steps_close {s : State} {i : Instr} {d : List Bool} {rest : List Turn} (hr : s.rst = false)
    (he : enabledMicro s = some .close) (hi : i = .acq ∨ i = .tempf) (hc : s.cmdr = encode i) (hsr : s.sr = frameWord d)
    (ht : s.turns = .sequencer :: rest) :
    steps 1 s = .next { s with
      turns := rest, im := false, csN := true, rsp := responseTo (encode i) d, rspValid := true, ph := .idle
      tr := s.tr ++ (if s.im then [.imClr] else []) ++ csEdge s.csN true ++ [.rsp (responseTo (encode i) d)] } := by
  have hrsp := closeRsp_eq_responseTo (s := { s with turns := rest }) hi hc hsr
  rw [steps_micro ht hr he, runMicro, microClose_eq, hrsp]
  rfl

/-- A ready block `s` after a whole acquisition by `i` that took the bits `d` (R131, R132). -/
def acquired (i : Instr) (d more : List Bool) (rest : List Turn) (s : State) : State := { s with
  turns := rest, line := more, sr := frameWord d, n := 16, dly := 0, cmdr := encode i
  rsp := responseTo (encode i) d, rspValid := true, per := if s.cfg.mode = .hw then none else s.per
  tr := s.tr ++ acquisitionTrace s.cfg (encode i) d (responseTo (encode i) d) }

section

variable {s : State} {i : Instr} {d more : List Bool} {rest : List Turn} (hs : Ready s) (hi : i = .acq ∨ i = .tempf)
  (hline : s.line = d ++ more) (hlen : d.length = 16)
include hs hi hline hlen

/-- SW mode: sixteen pulses and `CLOSE` (R119 to R121, R131). -/
theorem steps_frame_sw (hm : s.cfg.mode = .sw) :
    steps 49 (frameOpened i (List.replicate 49 .sequencer ++ rest) s) = .next (acquired i d more rest s) := by
  obtain ⟨hr, hp, hpins⟩ := hs
  obtain ⟨hcs, hsck, -, him⟩ := (State.pins_eq_iff _ _).1 hpins
  have hpulses := steps_pulses (s := frameOpened i (List.replicate 49 .sequencer ++ rest) s) (d := d) (more := more)
    (rest := .sequencer :: rest) hr hm rfl hsck (by simp [frameOpened, hlen]) hline (by rw [hlen]; rfl)
  rw [hlen, show (frameOpened i (List.replicate 49 .sequencer ++ rest) s).sr = 0 from rfl, foldl_shiftIn_zero] at hpulses
  refine Eq.trans (steps_add (k := 1) hpulses) (Eq.trans (steps_close (d := d) hr ?_ hi rfl rfl rfl) ?_)
  · simp [enabledMicro, frameOpened, hm]
  · cases hmask : maskUsed s.cfg <;>
      simp [frameOpened, acquired, acquisitionTrace, ifMasked, hmask, hm, hcs, him, hp, pinsOf]

/-- HW mode: the bracket and `CLOSE` (R126, R128, R130, R131). -/
theorem steps_frame_hw (hm : s.cfg.mode = .hw) (hbus : s.busAvail = true) :
    steps 4 (frameOpened i (List.replicate 4 .sequencer ++ rest) s) = .next (acquired i d more rest s) := by
  obtain ⟨hr, hp, hpins⟩ := hs
  obtain ⟨hcs, -, hown, him⟩ := (State.pins_eq_iff _ _).1 hpins
  have hbracket := steps_bracket (s := frameOpened i (List.replicate 4 .sequencer ++ rest) s) (rest := .sequencer :: rest)
    hr hm rfl hbus hlen hline rfl
  refine Eq.trans (steps_add (k := 1) hbracket) (Eq.trans (steps_close (d := d) hr ?_ hi rfl rfl rfl) ?_)
  · simp [enabledMicro, frameOpened, hm]
  · simp [frameOpened, acquired, acquisitionTrace, hm, hcs, him, hp, hown, pinsOf, maskUsed_of_hw]

/-- A whole acquisition with prompt turns (R132, R133, R162). -/
theorem steps_promptTurns (hbus : s.cfg.mode = .hw → s.busAvail = true)
    (ht : s.turns = .command (encode i) :: (promptTurns s.cfg ++ rest)) :
    steps (1 + (promptTurns s.cfg).length) s = .next (acquired i d more rest s) := by
  cases hm : s.cfg.mode with
  | sw =>
    have hopen := steps_opening (rest := List.replicate 49 .sequencer ++ rest) hs hi (by
      simp [ht, promptTurns, hm, List.replicate_succ])
    have hcount : 1 + (promptTurns s.cfg).length = (s.cfg.tCslow + 1) + (s.cfg.tConv + 1) + 1 + 49 := by
      simp [promptTurns, hm]
      omega
    rw [hcount, steps_add hopen, steps_frame_sw hs hi hline hlen hm]
  | hw =>
    have hopen := steps_opening (rest := List.replicate 4 .sequencer ++ rest) hs hi (by
      simp [ht, promptTurns, hm, List.replicate_succ])
    have hcount : 1 + (promptTurns s.cfg).length = (s.cfg.tCslow + 1) + (s.cfg.tConv + 1) + 1 + 4 := by
      simp [promptTurns, hm]
      omega
    rw [hcount, steps_add hopen, steps_frame_hw hs hi hline hlen hm (hbus hm)]

end

/-- `TEMPF` answers the decode of its frame (R162). -/
theorem responseTo_tempf (d : List Bool) : responseTo (encode .tempf) d = tempRsp (frameWord d) := by
  simp [responseTo, encode, opField_packCommand, opAcq, opTempf]

/-- Settles O50: a healthy chip's frame has neither flag set, and the prompt run answers its decode. -/
theorem healthyConnectedChipIsNoError : Obligations.HealthyConnectedChipIsNoError := by
  unfold Obligations.HealthyConnectedChipIsNoError
  refine ⟨fun d latency waited m h => h.tempRsp_frameWord, ?_, ?_⟩
  · intro s d more rest latency m hs hbus ht hline h
    refine ⟨_, steps_promptTurns hs (.inr rfl) hline h.length hbus ht, rfl, ?_⟩
    obtain ⟨hrsp, -⟩ := h.tempRsp_frameWord
    exact (responseTo_tempf d).trans hrsp
  · intro d disconnected latency waited m hearly h
    exact absurd h.converted (Nat.not_le.2 hearly)

end Sys2Proof.Machine
end

section
/-!
PROOFS. The encoding of commands (30_encoding.md R86 to R99): decoding and encoding are inverse, each row of the opcode
map is one condition on the word, the reserved words are the rest, the decode operations ignore the outer bits of a
sample, and the pseudo-operations expand as R99 says.
-/

namespace Sys2Proof

open Sys2Proof.Machine Sys2Proof.Laws.TableRow

/-! ### Decoding and encoding -/

/-- The operation a word decodes to is made of the word's own two fields (R86). -/
theorem encode_of_decode {c : Cmd} {i : Instr} (h : decode c = .ok i) : encode i = c := by
  rw [← packCommand_fields c]
  unfold decode at h
  split_ifs at h with hacq himm hconn hchid htemp htempf himm <;> cases h
  · rw [hacq, himm]
    rfl
  · rw [hconn]
    rfl
  · rw [hchid]
    rfl
  · rw [htemp]
    rfl
  · rw [htempf, himm]
    rfl

/-- Settles O1: the fields read back what was packed, and packing the fields of a word gives the word. -/
theorem decodeAndEncodeAreInverse : Obligations.DecodeAndEncodeAreInverse := by
  unfold Obligations.DecodeAndEncodeAreInverse
  exact ⟨decode_encode, fun _ _ => encode_of_decode⟩

theorem decode_eq_ok_iff {c : Cmd} {i : Instr} : decode c = .ok i ↔ encode i = c :=
  ⟨encode_of_decode, fun h => h ▸ decode_encode i⟩

theorem encode_injective : Function.Injective encode := by
  intro i j h
  have hi := decode_encode i
  rw [h, decode_encode] at hi
  exact (Except.ok.inj hi).symm

/-- A word is reserved exactly where no operation has it (R88, R95). -/
theorem exists_decode_error_iff {c : Cmd} : (∃ r, decode c = .error r) ↔ ∀ i, encode i ≠ c := by
  simp only [ne_eq, ← decode_eq_ok_iff]
  cases decode c <;> simp

/-! ### The rows of the opcode map -/

theorem exists_packCommand_eq_iff {op : BitVec 3} {c : Cmd} : (∃ w, packCommand op w = c) ↔ opField c = op := by
  constructor
  · rintro ⟨w, rfl⟩
    exact opField_packCommand op w
  · rintro rfl
    exact ⟨immField c, packCommand_fields c⟩

theorem and_opMask_eq_iff {op : BitVec 3} {c : Cmd} : c &&& 0x70000#19 = packCommand op 0 ↔ opField c = op := by
  rw [← packCommand_fields c, packCommand_and_opMask, packCommand_inj, opField_packCommand]
  simp

/-- A row with an operand is one condition on the bits its mask keeps (R88). -/
theorem decode_operand_row_iff {op : BitVec 3} {mk : Word → Instr} (hmk : ∀ w, encode (mk w) = packCommand op w)
    (c : Cmd) : (∃ w, decode c = .ok (mk w)) ↔ c &&& 0x70000#19 = packCommand op 0 := by
  simp only [decode_eq_ok_iff, hmk, exists_packCommand_eq_iff, and_opMask_eq_iff]

/-- A row without an operand is one word (R88, R90). -/
theorem decode_single_row_iff (i : Instr) (c : Cmd) : decode c = .ok i ↔ c &&& 0x7FFFF#19 = encode i := by
  rw [decode_eq_ok_iff, cmd_and_fullMask, eq_comm]

theorem conn_row_iff (c : Cmd) : (∃ w, decode c = .ok (.conn w)) ↔ c &&& 0x70000#19 = 0x10000#19 :=
  decode_operand_row_iff (op := opConn) (fun _ => rfl) c

theorem chid_row_iff (c : Cmd) : (∃ w, decode c = .ok (.chid w)) ↔ c &&& 0x70000#19 = 0x20000#19 :=
  decode_operand_row_iff (op := opChid) (fun _ => rfl) c

theorem temp_row_iff (c : Cmd) : (∃ w, decode c = .ok (.temp w)) ↔ c &&& 0x70000#19 = 0x30000#19 :=
  decode_operand_row_iff (op := opTemp) (fun _ => rfl) c

theorem acq_row_iff (c : Cmd) : decode c = .ok .acq ↔ c &&& 0x7FFFF#19 = 0x00000#19 := decode_single_row_iff .acq c

theorem tempf_row_iff (c : Cmd) : decode c = .ok .tempf ↔ c &&& 0x7FFFF#19 = 0x40000#19 :=
  decode_single_row_iff .tempf c

/-- No word selects two rows (R88). -/
theorem length_selected_le_one (c : Cmd) : (opcodeMap.filter (fun r => r.selects c)).length ≤ 1 := by
  have hcount :
      (opcodeMap.filter (fun r => r.selects c)).length = (opcodeMap.map (fun r => r.selects c)).count true := by
    rw [List.count, List.countP_map, List.countP_eq_length_filter]
    simp [Function.comp_def]
  have hdisjoint : ∀ (op : BitVec 3) (zero : Prop) [Decidable zero],
      [decide (op = 0 ∧ zero), decide (op = 1), decide (op = 2), decide (op = 3),
        decide (op = 4 ∧ zero)].count true ≤ 1 := by
    intro op zero _
    by_cases hz : zero <;> simp only [hz, and_true, and_false] <;> revert op <;> decide
  rw [hcount, ← packCommand_fields c, selects_packCommand]
  exact hdisjoint _ _

/-- A word that selects no row is reserved, and the other way round (R88, R95). -/
theorem selected_eq_nil_iff (c : Cmd) :
    opcodeMap.filter (fun r => r.selects c) = [] ↔ ∃ r, decode c = .error r := by
  simp only [opcodeMap, List.filter_eq_nil_iff, List.forall_mem_cons, OpRow.selects, beq_iff_eq, ← acq_row_iff,
    ← conn_row_iff, ← chid_row_iff, ← temp_row_iff, ← tempf_row_iff]
  cases hdec : decode c with
  | error r => simp
  | ok i => cases i <;> simp

/-- Settles O2: each row is one condition on the word, no two hold at once, and a reserved word meets none. -/
theorem decodeFollowsOpcodeMap : Obligations.DecodeFollowsOpcodeMap := by
  unfold Obligations.DecodeFollowsOpcodeMap
  intro c
  exact ⟨acq_row_iff c, conn_row_iff c, chid_row_iff c, temp_row_iff c, tempf_row_iff c, length_selected_le_one c,
    selected_eq_nil_iff c⟩

/-! ### The reserved words -/

/-- The reserved words by their fields (R95): a code above 4, or an operand where none is allowed. -/
theorem exists_decode_error_iff_fields (c : Cmd) : (∃ r, decode c = .error r) ↔
    (5 ≤ (opField c).toNat ∨ opField c = 0b000#3 ∧ immField c ≠ 0 ∨ opField c = 0b100#3 ∧ immField c ≠ 0) := by
  have hcode : ∀ op : BitVec 3,
      op = opAcq ∨ op = opConn ∨ op = opChid ∨ op = opTemp ∨ op = opTempf ∨ 5 ≤ op.toNat := by decide
  obtain hop | hop | hop | hop | hop | hop := hcode (opField c)
  · by_cases himm : immField c = 0#16 <;> simp [decode, hop, himm, opAcq]
  · simp [decode, hop, opAcq, opConn]
  · simp [decode, hop, opAcq, opConn, opChid]
  · simp [decode, hop, opAcq, opConn, opChid, opTemp]
  · by_cases himm : immField c = 0#16 <;> simp [decode, hop, himm, opAcq, opConn, opChid, opTemp, opTempf]
  · have hne : ∀ op : BitVec 3, op.toNat < 5 → opField c ≠ op := by
      rintro op hlt rfl
      omega
    simp [decode, hop, hne opAcq (by decide), hne opConn (by decide), hne opChid (by decide), hne opTemp (by decide),
      hne opTempf (by decide)]

/-- An operation is one of the two without an operand, or one of three with a sample. -/
def instrEquiv : Instr ≃ Bool ⊕ Fin 3 × Word where
  toFun
    | .acq => .inl false
    | .tempf => .inl true
    | .conn w => .inr (0, w)
    | .chid w => .inr (1, w)
    | .temp w => .inr (2, w)
  invFun
    | .inl false => .acq
    | .inl true => .tempf
    | .inr (0, w) => .conn w
    | .inr (1, w) => .chid w
    | .inr (2, w) => .temp w
  left_inv i := by cases i <;> rfl
  right_inv
    | .inl false => rfl
    | .inl true => rfl
    | .inr (0, _) => rfl
    | .inr (1, _) => rfl
    | .inr (2, _) => rfl

theorem natCard_bitVec (n : Nat) : Nat.card (BitVec n) = 2 ^ n := by
  rw [Nat.card_eq_fintype_card, ← FinEnum.card_eq_fintypeCard, FinEnum.card_bitVec]

/-- The 19-bit words with a meaning: one for each operation without an operand, and one per sample for the others. -/
theorem card_instr : Nat.card Instr = 196610 := by
  rw [Nat.card_congr instrEquiv, Nat.card_sum, Nat.card_prod, natCard_bitVec, Nat.card_eq_fintype_card,
    Nat.card_eq_fintype_card]
  rfl

/-- The reserved words are all words but the operations' own (R95). -/
theorem card_reserved : Nat.card { c : Cmd // ∃ r, decode c = .error r } = 327678 := by
  have hset : {c : Cmd | ∃ r, decode c = .error r} = (Set.range encode)ᶜ := by
    ext c
    simp [exists_decode_error_iff]
  have hrange := Set.ncard_range_of_injective encode_injective
  calc Nat.card { c : Cmd // ∃ r, decode c = .error r }
    _ = {c : Cmd | ∃ r, decode c = .error r}.ncard := Nat.card_coe_set_eq _
    _ = 2 ^ 19 - 196610 := by rw [hset, Set.ncard_compl, hrange, card_instr, natCard_bitVec]
    _ = 327678 := rfl

namespace Machine

/-- A reserved word is refused where a command can be accepted (R95, R186). -/
theorem hostTurn_of_reserved {c : Cmd} {s : State} (h : ∃ r, decode c = .error r) (hr : s.rst = false)
    (hp : s.ph = .idle) : hostTurn c s = .refused .reservedCommand := by
  obtain ⟨r, hdec⟩ := h
  simp [hostTurn, hdec, hr, hp]

/-- Settles O3: the fields say which words are reserved, taking the operations' words from all words counts them, and
the host's turn refuses them. -/
theorem reservedWordsAreRefused : Obligations.ReservedWordsAreRefused := by
  unfold Obligations.ReservedWordsAreRefused
  refine ⟨exists_decode_error_iff_fields, card_reserved, ?_⟩
  intro s c rest hr hp hturns hres
  rw [step_listed hturns]
  exact hostTurn_of_reserved hres hr hp

/-- Settles O4: the first five words are those of operations, and the last three evaluate. -/
theorem printedWordsDecode : Obligations.PrintedWordsDecode := by
  unfold Obligations.PrintedWordsDecode
  exact ⟨decode_encode .acq, decode_encode (.conn 0x0320#16), decode_encode (.chid 0x0320#16),
    decode_encode (.temp 0x0320#16), decode_encode .tempf, rfl, rfl, rfl⟩

/-! ### Samples -/

/-- The magnitude has 12 bits (R82). -/
theorem getLsbD_mag_of_le (w : Word) {j : Nat} (hj : 12 ≤ j) : (mag w).getLsbD j = false := by
  have hlt : (mag w).toNat < 2 ^ 12 := by
    rw [mag_toNat]
    exact Nat.mod_lt _ (by decide)
  exact Nat.testBit_lt_two_pow (hlt.trans_le (Nat.pow_le_pow_right (by decide) hj))

/-- Settles O47: the decode operations read only the two flags and the magnitude, which are bits 1 to 14. -/
theorem outerBitsAreIgnored : Obligations.OuterBitsAreIgnored := by
  unfold Obligations.OuterBitsAreIgnored
  intro c w w' h
  have hfault : fault w = fault w' := h 2 (by decide) (by decide)
  have hident : ident w = ident w' := h 1 (by decide) (by decide)
  have hmag : mag w = mag w' := by
    apply BitVec.eq_of_getLsbD_eq
    intro j _
    by_cases hj : j < 12
    · rw [getLsbD_mag w hj, getLsbD_mag w' hj, h (3 + j) (by omega) (by omega)]
    · rw [getLsbD_mag_of_le w (by omega), getLsbD_mag_of_le w' (by omega)]
  simp only [connRsp, chidRsp, tempRsp, hfault, hident, hmag, and_self]

/-! ### Pseudo-operations -/

/-- A line that is no pseudo-operation stands for itself (R99). -/
theorem expandFrom_cons_of_ne {l : AsmLine} (htemp : l ≠ .temp none) (hread : l ≠ .read) (k : Nat)
    (rest : List AsmLine) : expandFrom k (l :: rest) = l :: expandFrom (k + 1) rest := by
  cases l with
  | acq | conn | chid | tempf => rfl
  | temp o =>
    cases o with
    | none => exact absurd rfl htemp
    | some o => rfl
  | read => exact absurd rfl hread

/-- `$k` is `rsp[k].VAL` of a line that is an `acq`, and of no other (R99). -/
theorem operandWord_answerOf {prog : List AsmLine} {answers : List Rsp} {k : Nat} {r : Rsp} (h : answers[k]? = some r) :
    operandWord prog answers (.answerOf k) = if prog[k]? = some .acq then some (rspVal r) else none := by
  simp [operandWord, h]

/-- Settles O51: `expandFrom` by the kind of its first line, and the three operations by the word of their operand. -/
theorem pseudoOperationsExpand : Obligations.PseudoOperationsExpand := by
  unfold Obligations.PseudoOperationsExpand
  refine ⟨fun k rest => ⟨rfl, rfl, ?_, rfl⟩, fun _ => rfl, ?_⟩
  · intro l htemp hread
    exact expandFrom_cons_of_ne htemp hread k rest
  · intro prog answers k r hr
    simp only [lineInstr, operandWord_answerOf hr]
    exact ⟨fun hacq => by simp [hacq], fun hacq => by simp [hacq]⟩

end Machine
end Sys2Proof
end

section
/-!
PROOFS. The sequencer's micro-steps one by one (R112 to R131): the step that takes each of them, as one equation.
-/

namespace Sys2Proof.Machine

/-- What accepting an acquiring command leaves of a block whose chip-select is high (R87, R112). -/
theorem microStart_latchCommand {s : State} (hcs : s.csN = true) (c : Cmd) :
    microStart (s.latchCommand c) = { s with
      cmdr := c, rspValid := false, csN := false, dly := s.cfg.tCslow, ph := .stop
      tr := s.tr ++ [.cmd c, .csFall, .wait s.cfg.tCslow] } := by
  simp [microStart_eq, State.latchCommand, hcs]

/-- Settles O8: the word is latched, then `START` runs in the same step. -/
theorem acquiringCommandsStart : Obligations.AcquiringCommandsStart := by
  unfold Obligations.AcquiringCommandsStart
  intro s hr hp hcs
  have haccept (c : Cmd) := accept_ready (c := c) (run := microStart) hr hp
  simp only [microStart_latchCommand hcs] at haccept
  exact ⟨haccept (encode .acq), haccept (encode .tempf)⟩

/-- Settles O14: with the delay run down, `STOP` enables `TRIGGER` and `CONV` enables `OPENF`. -/
theorem triggerAndOpenFrameSteps : Obligations.TriggerAndOpenFrameSteps := by
  unfold Obligations.TriggerAndOpenFrameSteps
  intro s rest ht hr hd
  have hopenf (hp : s.ph = .conv) : step s = .next (microOpenf { s with turns := rest }) :=
    step_sequencer (m := .openf) ht hr (by simp [enabledMicro, hp, hd])
  refine ⟨fun hp hcs => ?_, fun hp hcs hm hmask => ?_, fun hp hcs hoff => ?_⟩
  · rw [step_sequencer (m := .trigger) ht hr (by simp [enabledMicro, hp, hd])]
    simp [runMicro, microTrigger_eq, hcs]
  · have hused : maskUsed s.cfg = true := by simp [maskUsed, hm, hmask]
    rw [hopenf hp, microOpenf_eq]
    simp [hcs, hused]
  · have hunused : maskUsed s.cfg = false := by
      obtain hm | hmask := hoff
      · exact maskUsed_of_hw hm
      · simp [maskUsed, hmask]
    rw [hopenf hp, microOpenf_eq]
    simp [hcs, hunused]

/-- In SW mode a lowered clock enables the next pulse, or `CLOSE` after the sixteenth bit (R119, R121, R131). -/
theorem enabledMicro_microClklo {s : State} (hm : s.cfg.mode = .sw) (hn : s.n.toNat < 16) :
    enabledMicro (microClklo s) = some (if s.n = 15 then .close else .clkhi) := by
  by_cases h15 : s.n = 15
  · simp [enabledMicro, microClklo_eq, hm, h15]
  · have hlt : s.n + 1 < 16 := by bv_omega
    rw [if_neg h15]
    simp only [enabledMicro, microClklo_eq, hm]
    exact if_pos hlt

/-- Settles O15: each phase of a pulse enables its own micro-step, and the sampled bit is the one `sampleData` gives. -/
theorem softwareShiftSteps : Obligations.SoftwareShiftSteps := by
  unfold Obligations.SoftwareShiftSteps
  intro s rest ht hr
  have hsample (hp : s.ph = .hi) : step s = .next (microSample { s with turns := rest }) :=
    step_sequencer (m := .sample) ht hr (by simp [enabledMicro, hp])
  have hclklo (hp : s.ph = .smp) : step s = .next (microClklo { s with turns := rest }) :=
    step_sequencer (m := .clklo) ht hr (by simp [enabledMicro, hp])
  refine ⟨fun hm hp hn => ?_, fun b more hp hline => ?_, fun hp hline => ?_, hclklo, fun hp hinv t hstep => ?_⟩
  · exact step_sequencer (m := .clkhi) ht hr (by simp only [enabledMicro, hp, hm, if_pos hn])
  · exact (hsample hp).trans (congrArg Host.Outcome.next (microSample_listed hline))
  · rw [hsample hp, microSample_draws]
    simp [hline, shiftIn, zext16]
  · have hmode : s.cfg.mode = .sw := by simpa [hp, phaseOfMode] using hinv.phase
    cases (hclklo hp).symm.trans hstep
    exact enabledMicro_microClklo hmode (hinv.count_lt (.inr hp))

/-- Settles O16: the bus is taken where it is available and waited for where it is not, the transfer's bits are those of
`drawBits`, and the bus is given back. -/
theorem peripheralShiftSteps : Obligations.PeripheralShiftSteps := by
  unfold Obligations.PeripheralShiftSteps
  intro s rest ht hr
  have hxfer (hp : s.ph = .owned) : step s = .next (microXfer { s with turns := rest }) :=
    step_sequencer (m := .xfer) ht hr (by simp [enabledMicro, hp])
  refine ⟨fun hm hp hbus => ?_, fun hm hp hbus => ?_, fun hp => ⟨?_, ?_, ?_⟩, fun d more hp hline hlen => ?_,
    fun hp => ?_⟩
  · exact step_sequencer (m := .beginBus) ht hr (by simp [enabledMicro, hp, hm, hbus])
  · rw [step_listed ht]
    simp [act, hr, sequencerTurn, enabledMicro, holdOf, hp, hm, hbus]
  · exact (drawBits_frame 16 s).1
  · exact (drawBits_eq 16 s).1
  · rw [hxfer hp, microXfer_draws, drawBits_turns]
    rfl
  · exact (hxfer hp).trans (congrArg Host.Outcome.next (microXfer_listed hlen hline))
  · exact step_sequencer (m := .endBus) ht hr (by simp [enabledMicro, hp])

/-- `{1, w}` written as a number of 17 bits (R91). -/
theorem mkRsp_true (w : Word) : mkRsp true w = 0x10000#17 ||| w.setWidth 17 := by
  rw [mkRsp, BitVec.append_def]
  rfl

/-- Where `CLOSE` is enabled (R131). -/
theorem enabledMicro_eq_close_iff (s : State) : enabledMicro s = some .close ↔
    s.cfg.mode = .sw ∧ s.ph = .opened ∧ s.n = 16 ∨ s.cfg.mode = .hw ∧ s.ph = .released := by
  constructor
  · intro h
    simpa using enabledMicro_cases h
  · rintro (⟨hm, hp, hn⟩ | ⟨hm, hp⟩)
    · simp [enabledMicro, hm, hp, hn]
    · simp [enabledMicro, hm, hp]

/-- Settles O17: `CLOSE` is enabled in both modes' last state, and `CMDR.OP` decides what it answers. -/
theorem closeStepGivesTheResponse : Obligations.CloseStepGivesTheResponse := by
  unfold Obligations.CloseStepGivesTheResponse
  intro s rest ht hr hcs hlast close
  have henabled : enabledMicro s = some .close := (enabledMicro_eq_close_iff s).2 hlast
  have hclose : step s = .next (close (closeRsp s)) := by
    rw [step_sequencer ht hr henabled, runMicro, microClose_eq]
    cases him : s.im <;> simp [close, hcs, him, closeRsp]
  refine ⟨fun hop => ?_, fun hop => ?_, fun hinv t hstep => ?_⟩
  · have hacq : opField s.cmdr = opAcq := hop
    rw [hclose, ← mkRsp_true, closeRsp, if_pos hacq]
  · have htempf : opField s.cmdr = opTempf := hop
    rw [hclose, closeRsp, htempf, if_neg (by decide), if_pos rfl]
  · have hidle := (stepKeepsTheInvariant s t hinv hstep).pins
    cases hclose.symm.trans hstep
    exact hidle

end Sys2Proof.Machine
end

section
/-!
PROOFS. The trace of the acquisition in progress (R34, R123, R132): every step keeps that it is the prescribed one so far
and that `SR` holds the bits taken, and `CLOSE` completes it.
-/

namespace Sys2Proof.Machine

/-! ### The prescribed events -/

/-- The next bit adds one pulse (R119 to R121). -/
theorem pulses_snoc (d : List Bool) (b : Bool) : pulses (d ++ [b]) = pulses d ++ [.sckRise, .sample b, .sckFall] := by
  induction d with
  | nil => rfl
  | cons a d ih => simp [pulses, ih]

/-- After the sample only the falling edge of the pulse is missing (R120, R121). -/
theorem pulses_dropLast_sckFall {d : List Bool} (hd : d ≠ []) : (pulses d).dropLast ++ [.sckFall] = pulses d := by
  obtain rfl | ⟨d, b, rfl⟩ := List.eq_nil_or_concat d
  · exact absurd rfl hd
  · simp [pulses_snoc]

theorem length_pulses (d : List Bool) : (pulses d).length = 3 * d.length := by
  induction d with
  | nil => rfl
  | cons b d ih => simp [pulses, ih]; omega

/-- How many events a whole acquisition of 16 bits has (R132). -/
theorem length_acquisitionTrace (c : Cfg) (w : Cmd) {d : List Bool} (r : Rsp) (hlen : d.length = 16) :
    (acquisitionTrace c w d r).length = if c.mode = .hw then 11 else if c.irqMaskEn then 58 else 56 := by
  cases hm : c.mode with
  | sw =>
    cases hmask : c.irqMaskEn <;>
      simp [acquisitionTrace, openingEvents, ifMasked, maskUsed, length_pulses, hlen, hm, hmask]
  | hw => simp [acquisitionTrace, openingEvents, ifMasked, maskUsed_of_hw, bracketEvents, hm]

/-! ### One acquisition in progress -/

/-- The acquisition in progress began behind the events `before` and has taken the bits `d` (R123, R132). -/
def HasTaken (before : List Event) (d : List Bool) (s : State) : Prop :=
  s.tr = before ++ eventsSoFar s.cfg s.cmdr d s.ph ∧ d.length = bitsTaken s ∧
  (frameOpen s.ph = true → s.sr.toNat = frameSum d % 2 ^ 16)

theorem inFlight_iff {s : State} : InFlight s ↔ (s.ph ≠ .idle → ∃ before d, HasTaken before d s) := Iff.rfl

/-- A micro-step other than `CLOSE` emits the next of the prescribed events, and `SAMPLE` and `XFER` take the bits. -/
theorem exists_hasTaken_runMicro {s : State} {m : Micro} {before : List Event} {d : List Bool} (ht : HasTaken before d s)
    (h : Inv s) (he : enabledMicro s = some m) (hm : m ≠ .close) : ∃ d', HasTaken before d' (runMicro m s) := by
  obtain ⟨htr, hlen, hsr⟩ := ht
  obtain ⟨rfl, hp, -⟩ | ⟨rfl, hp, -⟩ | ⟨rfl, hp, -⟩ | ⟨rfl, hp⟩ | ⟨rfl, hp⟩ | ⟨rfl, hp, hmode, -⟩ | ⟨rfl, hp⟩ |
    ⟨rfl, hp⟩ | ⟨rfl, -⟩ := enabledMicro_cases he
  on_goal 9 => exact absurd rfl hm
  all_goals
    simp only [hp, bitsTaken, eventsSoFar, frameOpen, forall_const] at htr hlen hsr
  · -- `TRIGGER`
    have hcs : s.csN = false := (h.pins_at hp).1
    refine ⟨[], ?_, rfl, fun ho => by cases ho⟩
    simp [runMicro, microTrigger_eq, eventsSoFar, htr, hcs]
  · -- `OPENF`
    have hcs : s.csN = true := (h.pins_at hp).1
    refine ⟨[], ?_, ?_, fun _ => ?_⟩ <;> rw [runMicro, microOpenf_eq]
    · simp [eventsSoFar, openingEvents, ifMasked, pulses, htr, hcs]
    · rfl
    · rfl
  · -- `CLKHI`
    refine ⟨d, ?_, hlen, fun _ => hsr⟩
    simp [runMicro, microClkhi_eq, eventsSoFar, htr]
  · -- `SAMPLE`
    refine ⟨d ++ [(sampleData s).1], ?_, ?_, fun _ => ?_⟩ <;> rw [runMicro, microSample_draws]
    · simp [eventsSoFar, pulses_snoc, htr]
    · simp [bitsTaken, hlen]
    · exact shiftIn_frameSum hsr _
  · -- `CLKLO`
    have hlt := h.count_lt (.inr hp)
    have hne : d ≠ [] := List.ne_nil_of_length_eq_add_one hlen
    refine ⟨d, ?_, ?_, fun _ => hsr⟩
    · simp [runMicro, microClklo_eq, eventsSoFar, htr, pulses_dropLast_sckFall hne]
    · have : (s.n + 1).toNat = s.n.toNat + 1 := by bv_omega
      exact hlen.trans this.symm
  · -- `BEGIN`
    have hn : s.n = 0 := by simpa [hp, hmode, countOk] using h.count
    obtain rfl : d = [] := List.eq_nil_of_length_eq_zero (by rw [hlen, hn]; rfl)
    refine ⟨[], ?_, rfl, fun _ => hsr⟩
    simp [runMicro, microBegin_eq, eventsSoFar, pulses, htr]
  · -- `XFER`
    obtain rfl : d = [] := List.eq_nil_of_length_eq_zero hlen
    refine ⟨(drawBits 16 s).1, ?_, (drawBits_frame 16 s).1, fun _ => ?_⟩ <;> rw [runMicro, microXfer_draws]
    · simp [eventsSoFar, htr]
    · exact frameWord_toNat _
  · -- `END`
    refine ⟨d, ?_, hlen, fun _ => hsr⟩
    simp [runMicro, microEnd_eq, eventsSoFar, bracketEvents, htr]

/-- The micro-step keeps the trace of the acquisition; after `CLOSE` none is in progress. -/
theorem InFlight.runMicro {s : State} {m : Micro} (hf : InFlight s) (h : Inv s) (he : enabledMicro s = some m) :
    InFlight (runMicro m s) := by
  by_cases hm : m = .close
  · subst hm
    exact fun hb => absurd rfl hb
  · obtain ⟨before, d, ht⟩ := inFlight_iff.1 hf (enabledMicro_busy he)
    exact fun _ => ⟨before, exists_hasTaken_runMicro ht h he hm⟩

/-- An acquisition begins with its command, the first falling edge and the first delay (R87, R112). -/
theorem inFlight_start {s : State} (hcs : s.csN = true) (c : Cmd) : InFlight (microStart (s.latchCommand c)) := by
  rw [microStart_latchCommand hcs]
  exact fun _ => ⟨s.tr, [], rfl, rfl, fun ho => by cases ho⟩

/-- The turn of any agent keeps the trace of the acquisition: only the sequencer and the host emit any of its events. -/
theorem InFlight.act {u : Turn} {s t : State} (hf : InFlight s) (h : Inv s) (ha : act u s = .next t) : InFlight t := by
  obtain rfl | ⟨c, i, -, -, hp, -, -, rfl⟩ | ⟨c, i, r, -, -, hp, -, -, rfl⟩ | ⟨m, -, -, he, rfl⟩ | ⟨-, -, -, rfl⟩ |
    ⟨a, -, -, rfl⟩ | ⟨-, rfl⟩ | ⟨-, rfl⟩ := act_next ha
  · exact hf
  · exact inFlight_start (h.pins_at hp).1 (encode i)
  · exact fun hb => absurd hp hb
  · exact hf.runMicro h he
  · exact hf
  · exact hf
  · exact fun hb => absurd rfl hb
  · exact hf

/-- Settles O29: choosing the turn touches nothing the trace of the acquisition speaks of, and every turn keeps it. -/
theorem stepKeepsTheAcquisitionTrace : Obligations.StepKeepsTheAcquisitionTrace := by
  unfold Obligations.StepKeepsTheAcquisitionTrace
  intro s t h hf hstep
  obtain ⟨turns, fresh, hnext⟩ := nextTurn_frame s
  have hs : Inv (nextTurn s).2 := hnext ▸ h.with_turns turns fresh
  have hfs : InFlight (nextTurn s).2 := hnext ▸ hf
  exact hfs.act hs hstep

/-! ### The end of an acquisition -/

/-- Where `CLOSE` is enabled all sixteen bits are taken and `SR` holds the word they spell (R123, R131). -/
theorem HasTaken.frame_of_close {before : List Event} {d : List Bool} {s : State} (ht : HasTaken before d s)
    (he : enabledMicro s = some .close) : d.length = 16 ∧ s.sr = frameWord d := by
  obtain ⟨-, hlen, hsr⟩ := ht
  have hlast := (enabledMicro_eq_close_iff s).1 he
  have hopen : frameOpen s.ph = true := by obtain ⟨-, hp, -⟩ | ⟨-, hp⟩ := hlast <;> rw [hp] <;> rfl
  refine ⟨?_, BitVec.eq_of_toNat_eq ((hsr hopen).trans (frameWord_toNat d).symm)⟩
  obtain ⟨-, hp, hn⟩ | ⟨-, hp⟩ := hlast
  · simp [hlen, bitsTaken, hp, hn]
  · simp [hlen, bitsTaken, hp]

/-- `CLOSE` completes the trace of the acquisition (R131, R132). -/
theorem HasTaken.microClose_tr {before : List Event} {d : List Bool} {s : State} (ht : HasTaken before d s) (h : Inv s)
    (he : enabledMicro s = some .close) :
    (microClose s).tr = before ++ acquisitionTrace s.cfg s.cmdr d (closeRsp s) := by
  obtain ⟨htr, -, -⟩ := ht
  obtain ⟨hm, hp, -⟩ | ⟨hm, hp⟩ := (enabledMicro_eq_close_iff s).1 he
  all_goals
    obtain ⟨hcs, -, -, him⟩ := h.pins_at hp
    simp [microClose_eq, htr, hp, hm, hcs, him, pinsOf, eventsSoFar, acquisitionTrace, ifMasked]

/-- Settles O31: the bits taken so far are the whole frame, and `CLOSE` adds the end of the trace and the response. -/
theorem closeCompletesTheTrace : Obligations.CloseCompletesTheTrace := by
  unfold Obligations.CloseCompletesTheTrace
  intro s rest h hf hr hturns he
  have hb := enabledMicro_busy he
  obtain ⟨before, d, ht⟩ := inFlight_iff.1 hf hb
  obtain ⟨hlen, hsr⟩ := ht.frame_of_close he
  have hrsp : closeRsp s = responseTo s.cmdr d := by
    obtain hc | hc := h.command hb
    · exact hc ▸ closeRsp_eq_responseTo (.inl rfl) hc hsr
    · exact hc ▸ closeRsp_eq_responseTo (.inr rfl) hc hsr
  have htr : (microClose { s with turns := rest }).tr = before ++ acquisitionTrace s.cfg s.cmdr d (closeRsp s) :=
    HasTaken.microClose_tr (s := { s with turns := rest }) ht (h.with_turns rest s.fresh) he
  exact ⟨_, before, d, step_sequencer hturns hr he, rfl, rfl, hlen, hrsp, htr, length_acquisitionTrace _ _ _ hlen⟩

end Sys2Proof.Machine
end

section
/-!
PROOFS. Whole acquisitions with prompt turns (R123, R132 to R134, R162), read off the state `acquired` they end in.
-/

namespace Sys2Proof.Machine

/-- Settles O44: the prior content is shifted out by the sixteenth bit. -/
theorem sixteenShiftsSpellTheFrame : Obligations.SixteenShiftsSpellTheFrame := by
  unfold Obligations.SixteenShiftsSpellTheFrame
  intro before d hlen
  apply BitVec.eq_of_toNat_eq
  simp [foldl_shiftIn_toNat, hlen]

/-- The ticks and the sequencer's steps of one prompt acquisition, `START` being taken (R199). -/
theorem length_promptTurns (c : Cfg) :
    (promptTurns c).length = c.tCslow + c.tConv + (if c.mode = .sw then 51 else 6) := by
  cases hm : c.mode <;> simp [promptTurns, hm] <;> omega

/-- What the two acquiring operations answer (R133, R162). -/
theorem responseTo_encode {i : Instr} (hi : i = .acq ∨ i = .tempf) (d : List Bool) :
    responseTo (encode i) d = if i = .acq then mkRsp true (frameWord d) else tempRsp (frameWord d) := by
  obtain rfl | rfl := hi
  · simp [responseTo, encode, opField_packCommand]
  · exact responseTo_tempf d

/-- Settles O37: the run ends in `acquired`, which changes no pin and no input of the ready block. -/
theorem acquisitionRunsToItsResponse : Obligations.AcquisitionRunsToItsResponse := by
  unfold Obligations.AcquisitionRunsToItsResponse
  intro s i d more rest hs hi hbus hturns hline hlen
  have hrun := steps_promptTurns hs hi hline hlen hbus hturns
  obtain ⟨hr, hp, hpins⟩ := hs
  exact ⟨acquired i d more rest s, hrun, responseTo_encode hi d, rfl, hp, hpins, rfl, rfl, rfl, rfl, hr,
    length_promptTurns s.cfg⟩

/-- The events between the second fall and the final rise of chip-select: the clock pulses inside the mask window, or the
bracket (R132, R134). -/
def shiftEvents (c : Cfg) (d : List Bool) : List Event :=
  match c.mode with
  | .sw => ifMasked c .imSet ++ pulses d ++ ifMasked c .imClr
  | .hw => bracketEvents d

theorem acquisitionTrace_eq_shiftEvents (c : Cfg) (w : Cmd) (d : List Bool) (r : Rsp) :
    acquisitionTrace c w d r = [.cmd w, .csFall, .wait c.tCslow, .csRise, .wait c.tConv, .csFall] ++ shiftEvents c d ++
      [.csRise, .rsp r] := by
  cases hm : c.mode with
  | sw => simp [acquisitionTrace, openingEvents, shiftEvents, hm]
  | hw => simp [acquisitionTrace, openingEvents, shiftEvents, ifMasked, maskUsed_of_hw, hm]

/-- Inside the open frame chip-select does not move (R31). -/
theorem cs_not_mem_shiftEvents (c : Cfg) (d : List Bool) : .csRise ∉ shiftEvents c d ∧ .csFall ∉ shiftEvents c d := by
  have hpulses : .csRise ∉ pulses d ∧ .csFall ∉ pulses d := by
    induction d with
    | nil => simp [pulses]
    | cons b d ih => simpa [pulses] using ih
  cases hm : c.mode with
  | sw => cases hmask : maskUsed c <;> simpa [shiftEvents, hm, ifMasked, hmask] using hpulses
  | hw => simp [shiftEvents, hm, bracketEvents]

/-- Settles O38: both runs end in `acquired` with the same response, and their traces differ in `shiftEvents` only. -/
theorem modesAreEquivalent : Obligations.ModesAreEquivalent := by
  unfold Obligations.ModesAreEquivalent
  intro s s' i d more more' rest rest' hs hs' hi hm hm' hbus hslow hconv ht hline ht' hline' hlen
  obtain ⟨hrise, hfall⟩ := cs_not_mem_shiftEvents s.cfg d
  obtain ⟨hrise', hfall'⟩ := cs_not_mem_shiftEvents s'.cfg d
  refine ⟨acquired i d more rest s, acquired i d more' rest' s', _, shiftEvents s.cfg d, shiftEvents s'.cfg d,
    responseTo (encode i) d, steps_promptTurns hs hi hline hlen (fun h => by simp [hm] at h) ht,
    steps_promptTurns hs' hi hline' hlen (fun _ => hbus) ht', rfl, rfl, rfl, rfl, rfl, ?_, ?_,
    hrise, hfall, hrise', hfall'⟩
  · simp [acquired, acquisitionTrace_eq_shiftEvents]
  · simp [acquired, acquisitionTrace_eq_shiftEvents, hslow, hconv]

end Sys2Proof.Machine
end

section
/-!
PROOFS. The decode operations (41_decode.md R150 to R166): what each of them answers and writes (R152, R154, R156, R164),
the valid results and the rendering of a response (R159 to R161, R166), and `TEMPF` as `ACQ` then `TEMP` (R163).
-/

namespace Sys2Proof.Machine

/-! ### The words and the answers as numbers -/

/-- The two fields of a command word do not overlap (R86). -/
theorem packCommand_eq_or (op : BitVec 3) (w : Word) : packCommand op w = packCommand op 0 ||| w.setWidth 19 := by
  have hop : packCommand op 0 = op.shiftLeftZeroExtend 16 := by
    rw [packCommand, BitVec.append_def]
    exact BitVec.or_zero
  rw [hop, packCommand, BitVec.append_def]
  rfl

theorem encode_conn (w : Word) : encode (.conn w) = 0x10000#19 ||| w.setWidth 19 := packCommand_eq_or opConn w

theorem encode_chid (w : Word) : encode (.chid w) = 0x20000#19 ||| w.setWidth 19 := packCommand_eq_or opChid w

theorem encode_temp (w : Word) : encode (.temp w) = 0x30000#19 ||| w.setWidth 19 := packCommand_eq_or opTemp w

theorem connRsp_eq (w : Word) : connRsp w = if w.getLsbD 2 then 0x10000#17 else 0x10001#17 := by
  unfold connRsp fault
  cases w.getLsbD 2 <;> rfl

theorem chidRsp_eq (c : Cfg) (w : Word) :
    chidRsp c w = if w.getLsbD 1 then 0#17 else 0x10000#17 ||| c.chipId.setWidth 17 := by
  rw [chidRsp, mkRsp_true]
  rfl

theorem tempRsp_eq (w : Word) : tempRsp w = if w.getLsbD 2 then 0#17 else if w.getLsbD 1 then 0#17
    else 0x10000#17 ||| ((w >>> 3) &&& 0xFFF#16).setWidth 17 := by
  rw [tempRsp, mkRsp_true]
  rfl

/-! ### The operations -/

/-- An operation whose answer is `r` gives it in the step that accepts it (R87). -/
theorem exec_of_respond {s : State} {i : Instr} {r : Rsp} (hi : afterLatch s.cfg i = State.respond r)
    (hr : s.rst = false) (hp : s.ph = .idle) : exec i s = .next ((s.latchCommand (encode i)).respond r) := by
  rw [exec_eq_accept, hi, accept_ready hr hp]

/-- No operation is accepted while busy (R87, R186). -/
theorem exec_busy (i : Instr) {s : State} (hr : s.rst = false) (hb : s.ph ≠ .idle) :
    exec i s = .refused .commandWhileBusy := by
  simp [exec_eq_accept, accept, hr, hb]

/-- An operation with word `c` and answer `r`: its decoding, its whole effect, and its one refusal (R87, R88, R186). -/
theorem operation_of_respond {s : State} {i : Instr} {c : Cmd} {r : Rsp} (hc : encode i = c)
    (hi : afterLatch s.cfg i = State.respond r) :
    decode c = .ok i ∧
    (s.rst = false → s.ph = .idle →
      exec i s = .next { s with cmdr := c, rsp := r, rspValid := true, tr := s.tr ++ [.cmd c, .rsp r] }) ∧
    (s.rst = false → s.ph ≠ .idle → exec i s = .refused .commandWhileBusy) := by
  subst hc
  refine ⟨decode_encode i, fun hr hp => ?_, exec_busy i⟩
  rw [exec_of_respond hi hr hp]
  simp [State.latchCommand, State.respond]

/-- Settles O5: `CONN` answers `connRsp`, which tests bit 2. -/
theorem connTestsTheFaultFlag : Obligations.ConnTestsTheFaultFlag := by
  unfold Obligations.ConnTestsTheFaultFlag
  intro s w
  exact operation_of_respond (encode_conn w) (congrArg State.respond (connRsp_eq w))

/-- Settles O6: `CHID` answers `chidRsp`, which tests bit 1. -/
theorem chidAnswersIdentityOrNone : Obligations.ChidAnswersIdentityOrNone := by
  unfold Obligations.ChidAnswersIdentityOrNone
  intro s w
  exact operation_of_respond (encode_chid w) (congrArg State.respond (chidRsp_eq s.cfg w))

/-- Settles O7: `TEMP` answers `tempRsp`, which tests bit 2, then bit 1, then takes the magnitude. -/
theorem tempAnswersMagnitudeOrError : Obligations.TempAnswersMagnitudeOrError := by
  unfold Obligations.TempAnswersMagnitudeOrError
  intro s w r
  exact operation_of_respond (encode_temp w) (congrArg State.respond (tempRsp_eq w))

/-- The answer of a decode operation depends on its sample, and for `CHID` on `CHIP_ID` (R151, R164). -/
theorem exists_respond {i : Instr} (hi : (∃ w, i = .conn w) ∨ (∃ w, i = .chid w) ∨ ∃ w, i = .temp w)
    {c c' : Cfg} (hid : (∃ w, i = .chid w) → c'.chipId = c.chipId) :
    ∃ r, afterLatch c i = State.respond r ∧ afterLatch c' i = State.respond r := by
  obtain ⟨w, rfl⟩ | ⟨w, rfl⟩ | ⟨w, rfl⟩ := hi
  · exact ⟨connRsp w, rfl, rfl⟩
  · have hsame : chidRsp c' w = chidRsp c w := by rw [chidRsp, chidRsp, hid ⟨w, rfl⟩]
    exact ⟨chidRsp c w, rfl, congrArg State.respond hsame⟩
  · exact ⟨tempRsp w, rfl, rfl⟩

/-- Settles O11: both states give the one answer of `exists_respond`, and the two events are the latch's and the
response's. -/
theorem decodeOperationsArePure : Obligations.DecodeOperationsArePure := by
  unfold Obligations.DecodeOperationsArePure
  intro s s' i hi hr hp hr' hp' hid
  obtain ⟨r, hans, hans'⟩ := exists_respond hi hid
  exact ⟨_, _, r, exec_of_respond hans hr hp, exec_of_respond hans' hr' hp', rfl, rfl, by simp, by simp⟩

/-! ### The rendering of a response -/

theorem degrees_eq (c : Cfg) (r : Rsp) :
    degrees c r = if rspOk r then ((rspVal r).toNat : Rat) / 4 else c.errorValue := by
  rw [degrees, stepsToDegrees, resolution, mul_one_div]

/-- `TEMP` gives a reading exactly where neither flag is set (R156). -/
theorem rspOk_tempRsp_iff (w : Word) : rspOk (tempRsp w) = true ↔ fault w = false ∧ ident w = false := by
  unfold tempRsp
  cases fault w <;> cases ident w <;> simp

/-- A reading is rendered as a quarter of the magnitude (R160). -/
theorem degrees_tempRsp_of_ok (c : Cfg) {w : Word} (hok : rspOk (tempRsp w) = true) :
    degrees c (tempRsp w) = ((mag w).toNat : Rat) / 4 := by
  obtain ⟨hf, hi⟩ := (rspOk_tempRsp_iff w).1 hok
  simp [degrees_eq, tempRsp_of_no_error hf hi]

theorem mag_le (w : Word) : (mag w).toNat ≤ 4095 := by
  rw [mag_toNat]
  omega

/-- Every magnitude is that of a sample with no flag set (R82). -/
theorem exists_sample_of_magnitude {k : Nat} (hk : k ≤ 4095) :
    ∃ w : Word, rspOk (tempRsp w) = true ∧ (mag w).toNat = k := by
  have hw : (BitVec.ofNat 16 (8 * k)).toNat = 8 * k := Nat.mod_eq_of_lt (by omega)
  have hlow : ∀ j, j < 3 → (BitVec.ofNat 16 (8 * k)).getLsbD j = false := by
    intro j hj
    rw [BitVec.getLsbD, hw, mul_comm, Nat.testBit_mul_two_pow (i := 3), decide_eq_false (by omega), Bool.false_and]
  refine ⟨BitVec.ofNat 16 (8 * k), (rspOk_tempRsp_iff _).2 ⟨hlow 2 (by decide), hlow 1 (by decide)⟩, ?_⟩
  rw [mag_toNat, hw]
  omega

/-- Settles O48: a valid result is a quarter of a magnitude, and the magnitudes are the numbers up to 4095. -/
theorem validResultsAreTheQuarterSteps : Obligations.ValidResultsAreTheQuarterSteps := by
  unfold Obligations.ValidResultsAreTheQuarterSteps
  intro c q
  constructor
  · rintro ⟨w, hok, rfl⟩
    exact ⟨(mag w).toNat, mag_le w, degrees_tempRsp_of_ok c hok⟩
  · rintro ⟨k, hk, rfl⟩
    obtain ⟨w, hok, hmag⟩ := exists_sample_of_magnitude hk
    exact ⟨w, hok, by rw [degrees_tempRsp_of_ok c hok, hmag]⟩

/-- In a legal configuration `ERROR_VALUE` is no reading (R37, R161). -/
theorem errorValue_ne_quarters {c : Cfg} (h : c.legal = true) {k : Nat} (hk : k ≤ 4095) :
    c.errorValue ≠ (k : Rat) / 4 := by
  simp only [Cfg.legal, Bool.and_eq_true] at h
  obtain ⟨-, hdistinct⟩ := h
  exact fun heq => (Cfg.errorDistinct_iff c).1 hdistinct ⟨k, hk, heq⟩

/-- Settles O49: an ERROR is rendered as `ERROR_VALUE`, which in a legal configuration is no quarter of a magnitude. -/
theorem errorIsRenderedApart : Obligations.ErrorIsRenderedApart := by
  unfold Obligations.ErrorIsRenderedApart
  intro c
  refine ⟨degrees_eq c, fun hlegal w w' herr hok => ?_⟩
  have herror : degrees c (tempRsp w) = c.errorValue := by simp [degrees_eq, herr]
  rw [herror, degrees_tempRsp_of_ok c hok]
  exact errorValue_ne_quarters hlegal (mag_le w')

/-! ### `TEMPF` is `ACQ` then `TEMP` -/

/-- The pin and bus events of an acquisition, the command and the response left out (R132, R163). -/
def pinEvents (c : Cfg) (d : List Bool) : List Event :=
  [.csFall, .wait c.tCslow, .csRise, .wait c.tConv, .csFall] ++ shiftEvents c d ++ [.csRise]

theorem acquisitionTrace_eq_pinEvents (c : Cfg) (w : Cmd) (d : List Bool) (r : Rsp) :
    acquisitionTrace c w d r = [.cmd w] ++ pinEvents c d ++ [.rsp r] := by
  simp [acquisitionTrace_eq_shiftEvents, pinEvents]

/-- A block to which `i` is presented next, with prompt turns (V29, V30). -/
def presented (i : Instr) (rest : List Turn) (s : State) : State :=
  { s with turns := .command (encode i) :: (promptTurns s.cfg ++ rest) }

/-- Settles O39: both runs end in `acquired` with the events `pinEvents`, where `ACQ` answers the raw word of the frame
and `TEMPF`, like `TEMP` of that word, its decode. -/
theorem tempfIsAcqThenTemp : Obligations.TempfIsAcqThenTemp := by
  unfold Obligations.TempfIsAcqThenTemp
  intro s d more rest hs hbus hline hlen
  have hrun (i : Instr) (hi : i = .acq ∨ i = .tempf) :
      steps (1 + (promptTurns s.cfg).length) (presented i rest s) =
        .next (acquired i d more rest (presented i rest s)) :=
    steps_promptTurns (s := presented i rest s) hs hi hline hlen hbus rfl
  have hraw : rspVal (responseTo (encode .acq) d) = frameWord d := by simp [responseTo_encode]
  have hdecode : responseTo (encode .tempf) d = tempRsp (rspVal (responseTo (encode .acq) d)) := by
    rw [hraw, responseTo_tempf]
  obtain ⟨hr, hp, -⟩ := hs
  refine ⟨_, _, _, pinEvents s.cfg d, hrun .acq (.inl rfl), hrun .tempf (.inr rfl), hdecode, ?_, ?_,
    exec_of_respond rfl hr hp, hdecode.symm⟩
  · simp [acquired, presented, acquisitionTrace_eq_pinEvents]
  · simp [acquired, presented, acquisitionTrace_eq_pinEvents]

end Sys2Proof.Machine
end

section
/-!
PROOFS. Holds, delays and errors (60_exceptions.md R181, R182, R187, R196, R199): a turn of the sequencer takes a
micro-step, is held or has nothing to do; a delay lasts for its ticks; every useful turn is progress; and a sample with
a flag set is answered with an ERROR.
-/

namespace Sys2Proof.Machine

/-! ### The holds and the fault -/

/-- An idle or held sequencer lets its turn pass (R17, R187; log 8). -/
theorem act_sequencer_rests {s : State} (hr : s.rst = false) (hrests : s.ph = .idle ∨ (holdOf s).isSome) :
    act .sequencer s = .next s := by
  have hnone : enabledMicro s = none := by
    obtain hp | hh := hrests
    · simp [enabledMicro, hp]
    · exact enabledMicro_of_held hh
  simp [act, hr, sequencerTurn, hnone, hrests]

/-- A step of an idle or held sequencer only uses up the turn (log 8). -/
theorem step_sequencer_rests {s : State} {rest : List Turn} (ht : s.turns = .sequencer :: rest) (hr : s.rst = false)
    (hrests : s.ph = .idle ∨ (holdOf s).isSome) : step s = .next { s with turns := rest } :=
  (step_listed ht).trans (act_sequencer_rests hr hrests)

/-- Settles O18: the two holds by their definition, and under the invariant a busy block has a micro-step or a hold,
never both. -/
theorem holdsAreExactlyTheTwo : Obligations.HoldsAreExactlyTheTwo := by
  unfold Obligations.HoldsAreExactlyTheTwo
  intro s h hr
  refine ⟨(holdOf_eq_waitTick_iff s).symm, (holdOf_eq_waitBus_iff s).symm, fun hb => ⟨fun hnone => ?_, fun hh => ?_⟩,
    fun rest ht hh => step_sequencer_rests ht hr (.inr hh)⟩
  · have hbusy : s.ph ≠ .idle := by simpa [State.busy] using hb
    have hnot : ¬ (enabledMicro s).isSome := by simpa using hnone
    exact (h.enabled_or_held hbusy).resolve_left hnot
  · simp [enabledMicro_of_held hh]

/-- The host's turn is not seen, is refused, or answers a next state; it is no fault. -/
theorem hostTurn_ne_fault (c : Cmd) (s : State) (f : Fault) : hostTurn c s ≠ .fault f := by
  cases hdec : decode c with
  | ok i =>
    rw [hostTurn_of_decode hdec, exec_eq_accept]
    obtain ⟨-, ha⟩ | ⟨-, -, ha⟩ | ⟨-, -, ha⟩ := accept_cases (encode i) (afterLatch s.cfg i) s <;> simp [ha]
  | error r =>
    simp only [hostTurn, hdec]
    split_ifs <;> simp

/-- Under the invariant no turn faults: only the sequencer's could, and it always answers (R187). -/
theorem act_ne_fault {s : State} (h : Inv s) (u : Turn) (f : Fault) : act u s ≠ .fault f := by
  cases u with
  | command c => exact hostTurn_ne_fault c s f
  | sequencer =>
    obtain ⟨t, ht⟩ := act_answers h (.inr (.inl rfl)) (fun _ => by simp)
    simp [ht]
  | tick =>
    simp only [act]
    split_ifs <;> simp
  | bus a =>
    simp only [act, busTurn]
    split_ifs <;> simp
  | reset level => simp [act]
  | interrupt => simp [act]

/-- Choosing the next turn keeps the invariant. -/
theorem Inv.nextTurn {s : State} (h : Inv s) : Inv (nextTurn s).2 := by
  obtain ⟨turns, fresh, hnext⟩ := nextTurn_frame s
  exact hnext ▸ h.with_turns turns fresh

/-- Settles O30: choosing the turn keeps the invariant, under which no turn faults. -/
theorem noStepFaultsUnderTheInvariant : Obligations.NoStepFaultsUnderTheInvariant := by
  unfold Obligations.NoStepFaultsUnderTheInvariant
  intro s f h
  exact act_ne_fault h.nextTurn _ f

/-! ### A delay -/

/-- While a delay runs, a turn of neither the host nor reset takes one off it if it is a tick, and apart from that
changes at most `bus_avail` (R196). -/
theorem step_delayed {s : State} {u : Turn} {rest : List Turn} (ht : s.turns = u :: rest) (hr : s.rst = false)
    (hown : s.own = false) (hh : holdOf s = some .waitTick) (hu : QuietTurn u) :
    ∃ a, step s = .next { s with turns := rest, dly := s.dly - [u].count .tick, busAvail := a } := by
  have hheld : (holdOf { s with turns := rest }).isSome := Option.isSome_iff_exists.2 ⟨_, hh⟩
  rw [step_listed ht]
  obtain ⟨rfl, h⟩ | ⟨rfl | rfl, h⟩ | ⟨a, rfl, h⟩ := act_held (s := { s with turns := rest }) hr hown hheld hu
  · exact ⟨s.busAvail, h⟩
  · exact ⟨s.busAvail, h⟩
  · exact ⟨s.busAvail, h⟩
  · exact ⟨a, h⟩

/-- Fewer ticks than the delay only shorten it (R196). -/
theorem steps_delayed {us rest : List Turn} {s : State} (ht : s.turns = us ++ rest) (hr : s.rst = false)
    (hown : s.own = false) (hp : s.ph = .stop ∨ s.ph = .conv) (hus : ∀ u ∈ us, QuietTurn u)
    (hfew : us.count .tick < s.dly) :
    ∃ a, steps us.length s = .next { s with turns := rest, dly := s.dly - us.count .tick, busAvail := a } := by
  induction us generalizing s with
  | nil =>
    subst ht
    exact ⟨s.busAvail, rfl⟩
  | cons u us ih =>
    rw [List.forall_mem_cons] at hus
    obtain ⟨hu, hus⟩ := hus
    have hcount : (u :: us).count .tick = [u].count .tick + us.count .tick := List.count_append (l₁ := [u])
    have hh := (holdOf_eq_waitTick_iff s).2 ⟨hp, by omega⟩
    obtain ⟨a, hone⟩ := step_delayed ht hr hown hh hu
    obtain ⟨a', hrun⟩ := ih (s := { s with turns := us ++ rest, dly := s.dly - [u].count .tick, busAvail := a })
      rfl hr hown hp hus (by simp only; omega)
    refine ⟨a', (steps_succ hone).trans (hrun.trans ?_)⟩
    rw [hcount, ← Nat.sub_sub]

/-- Settles O19: the turns only shorten the delay and move `bus_avail`. -/
theorem delayIsALowerBound : Obligations.DelayIsALowerBound := by
  unfold Obligations.DelayIsALowerBound
  intro us rest s ht hr hown hp hus hfew
  obtain ⟨a, hrun⟩ := steps_delayed ht hr hown hp hus hfew
  exact ⟨_, hrun, rfl, rfl, rfl, rfl, rfl⟩

/-! ### Progress -/

/-- The whole work of an acquisition, `START` being taken (R199). -/
theorem workLeft_microStart (s : State) :
    workLeft (microStart s) = s.cfg.tCslow + s.cfg.tConv + (if s.cfg.mode = .sw then 51 else 6) := by
  cases hm : s.cfg.mode <;> simp [workLeft, microStart_eq, hm] <;> omega

/-- Only an idle block has no work left (R199). -/
theorem Inv.workLeft_eq_zero_iff {s : State} (h : Inv s) : workLeft s = 0 ↔ s.ph = .idle := by
  cases hp : s.ph with
  | hi =>
    have hlt := h.count_lt (.inl hp)
    simpa [workLeft, hp] using Nat.sub_ne_zero_of_lt hlt
  | smp =>
    have hlt := h.count_lt (.inr hp)
    simp [workLeft, hp]
    omega
  | opened => cases hm : s.cfg.mode <;> simp [workLeft, hp, hm]
  | idle | stop | conv | owned | xferd | released => simp [workLeft, hp]

/-- Settles O40: `START` leaves the whole work, a useful turn takes one off and no quiet turn adds any, and every busy
phase has some left. -/
theorem everyUsefulTurnIsProgress : Obligations.EveryUsefulTurnIsProgress := by
  unfold Obligations.EveryUsefulTurnIsProgress
  refine ⟨fun s t hr hp hexec => ?_, fun s t u rest h hr ht hu hstep => ?_, fun s h => h.workLeft_eq_zero_iff⟩
  · obtain ⟨c, rfl⟩ : ∃ c, t = microStart (s.latchCommand c) := by
      obtain hacq | htempf := hexec
      · exact ⟨encode .acq, Host.Outcome.next.inj (hacq.symm.trans (accept_ready hr hp))⟩
      · exact ⟨encode .tempf, Host.Outcome.next.inj (htempf.symm.trans (accept_ready hr hp))⟩
    exact workLeft_microStart _
  · rw [step_listed ht] at hstep
    have hs : Inv { s with turns := rest } := h.with_turns rest s.fresh
    exact ⟨workLeft_act_le (s := { s with turns := rest }) hs hu hstep,
      fun huseful => workLeft_act_useful (s := { s with turns := rest }) hs hr huseful hstep⟩

/-! ### Errors -/

/-- A sample with the fault flag or the identity bit set decodes to ERROR (R156). -/
theorem tempRsp_of_error {w : Word} (h : w.getLsbD 2 = true ∨ w.getLsbD 1 = true) : tempRsp w = 0x00000#17 := by
  rw [tempRsp_eq]
  obtain h | h := h <;> simp [h]

/-- `TEMP` of such a sample answers ERROR (R156). -/
theorem exec_temp_of_error {s : State} {w : Word} (h : w.getLsbD 2 = true ∨ w.getLsbD 1 = true) (hr : s.rst = false)
    (hp : s.ph = .idle) : ∃ t, exec (.temp w) s = .next t ∧ t.rsp = 0x00000#17 ∧ t.rspValid = true ∧ t.ph = .idle :=
  ⟨_, exec_of_respond rfl hr hp, tempRsp_of_error h, rfl, hp⟩

/-- The `CLOSE` of a `TEMPF` that took such a sample answers ERROR and leaves the block idle (R131, R156). -/
theorem step_close_tempf_of_error {s : State} {rest : List Turn}
    (h : s.sr.getLsbD 2 = true ∨ s.sr.getLsbD 1 = true) (hr : s.rst = false) (ht : s.turns = .sequencer :: rest)
    (he : enabledMicro s = some .close) (hc : s.cmdr = encode .tempf) :
    ∃ t, step s = .next t ∧ t.rsp = 0x00000#17 ∧ t.rspValid = true ∧ t.ph = .idle ∧ t.turns = rest ∧ t.rst = false := by
  have hrsp : closeRsp { s with turns := rest } = 0x00000#17 := (closeRsp_tempf hc).trans (tempRsp_of_error h)
  refine ⟨_, step_sequencer ht hr he, ?_⟩
  rw [runMicro, microClose_eq]
  exact ⟨hrsp, rfl, rfl, rfl, hr⟩

/-- Settles O45: `CONN` tests the fault flag, `TEMP` and `CLOSE` decode such a sample to ERROR, and an idle sequencer
rests. -/
theorem faultFlagMeansError : Obligations.FaultFlagMeansError := by
  unfold Obligations.FaultFlagMeansError
  intro s w hw hr
  refine ⟨fun hp => ⟨⟨_, exec_of_respond rfl hr hp, ?_, rfl, hp⟩, exec_temp_of_error (.inl hw) hr hp⟩, ?_⟩
  · exact (connRsp_eq w).trans (if_pos hw)
  · rintro rest ht he hc rfl
    obtain ⟨t, hstep, hrsp, hvalid, hp, hturns, hrt⟩ := step_close_tempf_of_error (.inl hw) hr ht he hc
    exact ⟨t, hstep, hrsp, hvalid, hp, step_sequencer_rests hturns hrt (.inl hp)⟩

/-- Settles O46: `CHID` tests the identity bit, and `TEMP` and `CLOSE` decode such a sample to ERROR. -/
theorem identityBitMeansError : Obligations.IdentityBitMeansError := by
  unfold Obligations.IdentityBitMeansError
  intro s w hw hr
  refine ⟨fun hp => ⟨⟨_, exec_of_respond rfl hr hp, ?_, rfl, hp⟩, exec_temp_of_error (.inr hw) hr hp⟩, ?_⟩
  · exact (chidRsp_eq s.cfg w).trans (if_pos hw)
  · rintro rest ht he hc rfl
    obtain ⟨t, hstep, hrsp, hvalid, hp, -⟩ := step_close_tempf_of_error (.inr hw) hr ht he hc
    exact ⟨t, hstep, hrsp, hvalid, hp⟩

end Sys2Proof.Machine
end

section
/-!
PROOFS. Reset and hazards (70_reset_and_hazards.md R211, R212, R216, R220): a reset releases the pins in order, the level
RST = 1 holds the block, a command is refused while busy, and the bracket is refused to other owners of the bus.
-/

namespace Sys2Proof.Machine

/-! ### A later reset -/

/-- Releasing chip-select is an event only where it was low (R34). -/
theorem csEdge_release (v : Bool) : csEdge v true = if v then [] else [.csRise] := by cases v <;> rfl

/-- Settles O23: `resetBlock_eq` gives the pins and the session, and `resetEvents` lists the events in the order bus,
mask, clock, chip-select. -/
theorem resetReleasesThePins : Obligations.ResetReleasesThePins := by
  unfold Obligations.ResetReleasesThePins
  intro s rest ht
  obtain ⟨sr, n, dly, cmdr, rsp, -, -, hreset⟩ := resetBlock_eq { s with turns := rest }
  refine ⟨{ resetBlock { s with turns := rest } with rst := true }, step_listed ht, ?_⟩
  rw [hreset]
  exact ⟨rfl, rfl, rfl, rfl, fun hown => if_pos hown, by simp [resetEvents, csEdge_release], rfl, rfl, rfl, rfl⟩

/-! ### The level RST -/

/-- While RST = 1 a command is not seen, whatever its word (R211; log 13). -/
theorem hostTurn_in_reset (c : Cmd) {s : State} (hr : s.rst = true) : hostTurn c s = .next s := by
  cases hdec : decode c with
  | ok i => simp [hostTurn_of_decode hdec, exec_eq_accept, accept, hr]
  | error r => simp [hostTurn, hdec, hr]

/-- An operation leaves the word latched for it in `CMDR` (R25, R87). -/
@[simp] theorem afterLatch_cmdr (c : Cfg) (i : Instr) (s : State) : (afterLatch c i s).cmdr = s.cmdr := by
  cases i <;> rfl

/-- An idle block outside reset accepts an operation and latches its word (R25, R87). -/
theorem exec_ready_latches (i : Instr) {s : State} (hr : s.rst = false) (hp : s.ph = .idle) :
    ∃ t, exec i s = .next t ∧ t.cmdr = encode i :=
  ⟨_, (exec_eq_accept i s).trans (accept_ready hr hp), afterLatch_cmdr ..⟩

/-- Settles O24: the invariant keeps the reset state while RST = 1, where commands, ticks and the sequencer do nothing;
once RST = 0 the block is still idle and accepts. -/
theorem resetLevelHoldsTheBlock : Obligations.ResetLevelHoldsTheBlock := by
  unfold Obligations.ResetLevelHoldsTheBlock
  intro s h hr
  obtain ⟨hp, hvalid⟩ := h.resetState hr
  refine ⟨⟨hp, hp ▸ h.pins, hvalid⟩, fun c rest ht => ?_, ?_, fun i rest ht => ⟨step_listed ht, ?_⟩⟩
  · exact (step_listed ht).trans (hostTurn_in_reset c hr)
  · rintro u rest (rfl | rfl) ht
    · exact (step_listed ht).trans (if_pos hr)
    · exact (step_listed ht).trans (if_pos hr)
  · obtain ⟨t, hexec, hcmdr⟩ := exec_ready_latches i (s := { s with rst := false, turns := rest }) rfl hp
    exact ⟨t, hexec, hcmdr, (stepRunsTheDecodedCommand _ _ rest i rfl (decode_encode i)).trans hexec⟩

/-! ### Hazards -/

/-- While busy any word is refused, a reserved one too (R189, R216). -/
theorem hostTurn_busy (c : Cmd) {s : State} (hr : s.rst = false) (hb : s.ph ≠ .idle) :
    hostTurn c s = .refused .commandWhileBusy := by
  cases hdec : decode c with
  | ok i => rw [hostTurn_of_decode hdec, exec_busy i hr hb]
  | error r => simp [hostTurn, hdec, hr, hb]

/-- Settles O13: `BUSY` = 1 is a phase other than `IDLE`, in which the host's turn refuses every word. -/
theorem commandWhileBusyIsRefused : Obligations.CommandWhileBusyIsRefused := by
  unfold Obligations.CommandWhileBusyIsRefused
  intro s c rest ht hr hb
  have hp : s.ph ≠ .idle := by simpa [State.busy] using hb
  exact (step_listed ht).trans (hostTurn_busy c hr hp)

/-- Settles O21: the bus owners' turn is refused exactly where it takes the bus the block owns. -/
theorem busOwnersHonourTheBracket : Obligations.BusOwnersHonourTheBracket := by
  unfold Obligations.BusOwnersHonourTheBracket
  intro s a rest ht
  rw [step_listed ht]
  constructor
  · intro hown ha
    simp [act, busTurn, hown, ha]
  · rintro (hown | ha)
    · simp [act, busTurn, hown]
    · simp [act, busTurn, ha]

end Sys2Proof.Machine
end
